-- ==== Sys2Proof/Word.lean ====
section
/-! DEFINITION. The word types of the block and the three operand widths (R8, R20, R25, R106). -/

namespace Sys2Proof

/-- A byte of memory (R35). -/
abbrev Byte := BitVec 8

/-- A 16-bit word: offset, selector, port number, instruction pointer (R25, R27, R37). -/
abbrev Half := BitVec 16

/-- A 32-bit general register (R20). -/
abbrev Word := BitVec 32

/-- A 21-bit absolute address before the gate (R61). -/
abbrev Linear := BitVec 21

/-- A device identity (R37). -/
abbrev DeviceId := Nat

/-- The operand width of an instruction: 8, 16 or 32 bits (R106). -/
inductive Width where
  | w8
  | w16
  | w32
deriving DecidableEq, Repr

/-- The width in bits. -/
@[reducible] def Width.bits : Width → Nat
  | .w8 => 8
  | .w16 => 16
  | .w32 => 32

/-- The width in bytes. -/
@[reducible] def Width.bytes : Width → Nat
  | .w8 => 1
  | .w16 => 2
  | .w32 => 4

/-- The seven flag cells: six status flags and the interrupt enable (R29). -/
structure Flags where
  cf : Bool
  pf : Bool
  af : Bool
  zf : Bool
  sf : Bool
  ofl : Bool
  ifl : Bool
deriving DecidableEq, Repr

end Sys2Proof
end

