-- ==== Sys2Proof/Config.lean ====
section
/-! DEFINITION. The implementation parameters of R5 (plain data, held in State.params) and the two free values:
UNDEF_FLAG (R203, U1) and the answer of a device the input queue says nothing of (U11). -/

namespace Sys2Proof

/-- What follows a DecodeFault (R5, R510, R511, U3). -/
inductive DecodeFaultPolicy where
  | halt
  | vector6
deriving DecidableEq, Repr

/-- The type of a drive slot of the disk channel: "each drive typed {None, Disk variant}" (R550). -/
inductive DriveKind where
  | none
  | disk
deriving DecidableEq, Repr

/-- What the `reset()` of a device does on the bus and the controller (R423). -/
structure Binding where
  /-- ports it unregisters -/
  drops : List Half
  /-- ports it registers -/
  ports : List Half
  /-- does it request an interrupt line -/
  wantsLine : Bool
deriving DecidableEq, Repr

/-- The ports of a disk channel: DISK_PORTS (R5, R556, R560). -/
structure DiskPorts where
  /-- the command block: 8 ports -/
  command : Vector Half 8
  /-- the control block, if the channel has one -/
  control : Option (List Half)
  /-- the ports shared with the peer device, which the channel does not register -/
  shared : List Half
deriving DecidableEq, Repr

/-- The control ports a channel registers: those of its control block, if it has one, that are not shared (R556). -/
def DiskPorts.controlOwn (p : DiskPorts) : List Half :=
  match p.control with
  | some c => c.filter fun x => !p.shared.contains x
  | none => []

/-- What a device of the device set is. All but the two cases the spec describes are black boxes (R422). -/
inductive DeviceKind where
  /-- a device of which only the contract is known (R422) -/
  | blackBox (b : Binding)
  /-- the reference device, with the types of its two slots and its ports (R550, R560) -/
  | diskChannel (slot0 slot1 : DriveKind) (ports : DiskPorts)
  /-- the configuration-mechanism stub, with its address and data ports (R426) -/
  | configStub (addressPorts dataPorts : List Half) (b : Binding)
deriving DecidableEq, Repr

/-- What a device's `reset()` binds: a disk channel always requests a line and registers its command block and its own
control ports (R556); of any other device the configuration says it (R423). -/
def DeviceKind.binding : DeviceKind → Binding
  | .blackBox b => b
  | .diskChannel _ _ p => ⟨[], p.command.toList ++ p.controlOwn, true⟩
  | .configStub _ _ b => b

/-- One device of the launch configuration: its identity, what it is (R423, R556; the device set of R5). -/
structure DeviceSpec where
  id : DeviceId
  kind : DeviceKind
  /-- ALLOC_LINE (R531): the lines it is given first when they are free; then the lowest free line. log 20 -/
  linePrefs : List Nat
deriving DecidableEq, Repr

/-- The parameters of R5. They are fixed for a run; a statement over every state is a statement over all
their values. log 1 -/
structure Params where
  /-- RAM_SIZE (D8) -/
  ramSize : Nat
  /-- A20_RESET (D9) -/
  a20Reset : Bool
  /-- RESET_CS (D28) -/
  resetCs : Half
  /-- RESET_IP (D28) -/
  resetIp : Half
  /-- DECODE_FAULT_POLICY (D11) -/
  policy : DecodeFaultPolicy
  /-- NLINES (D21) -/
  nlines : Nat
  /-- VECTOR_OF_LINE (D20): the lines whose vector is not the default one. log 23 -/
  vectorTable : List (Nat × Byte)
  /-- MAX_INSN_LEN (D12) -/
  maxInsnLen : Nat
  /-- the device set in RESET_ORDER (D27, D36) -/
  devices : List DeviceSpec
deriving DecidableEq, Repr

/-- The parameters at State.reset: the defaults of R5; for the OPEN ones a value of the model's
(DESIGN CHOICE: `ramSize` log 2, `a20Reset` log 3, `devices` log 8; unsafe). -/
def Params.default : Params where
  ramSize := 0x110000
  a20Reset := false
  resetCs := 0xF000#16
  resetIp := 0xFFF0#16
  policy := .halt
  nlines := 16
  vectorTable := []
  maxInsnLen := 15
  devices := []

/-- The instructions with an `UNDEF_FLAG` site (R203). -/
inductive UndefOp where
  | shl
  | shr
  | sar
  | rol
  | ror
  | rcl
  | rcr
  | mul
  | imul
  | div
  | idiv
deriving DecidableEq, Repr

/-- The six status flags by name (R29). -/
inductive FlagName where
  | cf
  | pf
  | af
  | zf
  | sf
  | ofl
deriving DecidableEq, Repr

/-- What `UNDEF_FLAG` is a function of: the mnemonic, the width, the operand values, the count and the flags
before the instruction (R203); and which flag is asked for. Operand values are zero-extended. -/
structure UndefQuery where
  flag : FlagName
  op : UndefOp
  width : Width
  operand1 : BitVec 64
  operand2 : BitVec 32
  count : Nat
  flags : Flags
deriving DecidableEq, Repr

/-- `UNDEF_FLAG` (R5, R203, U1): one total deterministic function, with no value any proof can see. log 6 (safe). -/
opaque Config.undefFlag : UndefQuery → Bool

/-- The value a mapped device answers with when the input queue of State holds no answer for the call: a free
value, a fresh one for each call (U11). log 7 (safe). -/
opaque Config.deviceAnswer : Nat → BitVec 32

end Sys2Proof
end

