-- ==== Sys2Proof/Syntax.lean ====
section
/-! DEFINITION. The instruction syntax: register numbers, memory operands and one constructor of Instr for each
row of spec/opcode_table.json (R108 to R122, R136). -/

namespace Sys2Proof

/-- A register number 0..7 as an encoding names it (R119). What it names depends on the width: `r32[i]`,
`r16[i]` or `r8[i]` (R20 to R23); `r4` is ESP or SP at widths 32 and 16, and AH at width 8. -/
inductive RegNum where
  | r0
  | r1
  | r2
  | r3
  | r4
  | r5
  | r6
  | r7
deriving DecidableEq, Repr

/-- A segment register (R25). -/
inductive SReg where
  | es
  | cs
  | ss
  | ds
deriving DecidableEq, Repr

/-- The base expression of a 16-bit address form, in the order of the `rm` field (R110). -/
inductive Base where
  | bxSi
  | bxDi
  | bpSi
  | bpDi
  | si
  | di
  | bp
  | bx
deriving DecidableEq, Repr

/-- A memory operand named by a ModRM byte with `mod` not 3 (R110). -/
inductive MemOperand where
  /-- `mod` = 0, `rm` = 6: a 16-bit displacement and no base -/
  | direct (disp : Half)
  /-- `mod` = 0, `rm` not 6: the base alone -/
  | base (b : Base)
  /-- `mod` = 1: the base and a sign-extended 8-bit displacement -/
  | disp8 (b : Base) (disp : Byte)
  /-- `mod` = 2: the base and a 16-bit displacement -/
  | disp16 (b : Base) (disp : Half)
deriving DecidableEq, Repr

/-- An E operand: the register `rm` when `mod` = 3, else a memory operand (R109, R112). -/
inductive EOperand where
  | reg (r : RegNum)
  | mem (m : MemOperand)
deriving DecidableEq, Repr

/-- An immediate of form Iv: 2 bytes, or 4 under the operand-size prefix (R106, R114). -/
inductive ImmV where
  | imm16 (v : Half)
  | imm32 (v : Word)
deriving DecidableEq, Repr

/-- The operand-size class of a row of the opcode map: what prefix 0x66 does to it (R107). -/
inductive OpsizeClass where
  | selects
  | ignored
  | faults
deriving DecidableEq, Repr

/-- The instructions: one constructor per row of the opcode table. The five prefix bytes are rows of their own;
a prefixed instruction is the prefixes and then the instruction. log 11 -/
inductive Instr where
  /-- ADD Eb,Gb: 0x00 (R210) -/
  | addEbGb (e : EOperand) (g : RegNum)
  /-- ADD Ev,Gv: 0x01 (R210) -/
  | addEvGv (e : EOperand) (g : RegNum)
  /-- ADD Gb,Eb: 0x02 (R210) -/
  | addGbEb (g : RegNum) (e : EOperand)
  /-- ADD Gv,Ev: 0x03 (R210) -/
  | addGvEv (g : RegNum) (e : EOperand)
  /-- ADD AL,Ib: 0x04 (R210) -/
  | addAlIb (ib : Byte)
  /-- ADD eAX,Iv: 0x05 (R210) -/
  | addEaxIv (iv : ImmV)
  /-- ADD Eb,Ib: 0x80 /0 (R210) -/
  | addEbIb (e : EOperand) (ib : Byte)
  /-- ADD Ev,Iv: 0x81 /0 (R210) -/
  | addEvIv (e : EOperand) (iv : ImmV)
  /-- ADD Ev,Ibs: 0x83 /0 (R210) -/
  | addEvIbs (e : EOperand) (ib : Byte)
  /-- OR Eb,Gb: 0x08 (R211) -/
  | orEbGb (e : EOperand) (g : RegNum)
  /-- OR Ev,Gv: 0x09 (R211) -/
  | orEvGv (e : EOperand) (g : RegNum)
  /-- OR Gb,Eb: 0x0A (R211) -/
  | orGbEb (g : RegNum) (e : EOperand)
  /-- OR Gv,Ev: 0x0B (R211) -/
  | orGvEv (g : RegNum) (e : EOperand)
  /-- OR AL,Ib: 0x0C (R211) -/
  | orAlIb (ib : Byte)
  /-- OR eAX,Iv: 0x0D (R211) -/
  | orEaxIv (iv : ImmV)
  /-- OR Eb,Ib: 0x80 /1 (R211) -/
  | orEbIb (e : EOperand) (ib : Byte)
  /-- OR Ev,Iv: 0x81 /1 (R211) -/
  | orEvIv (e : EOperand) (iv : ImmV)
  /-- OR Ev,Ibs: 0x83 /1 (R211) -/
  | orEvIbs (e : EOperand) (ib : Byte)
  /-- ADC Eb,Gb: 0x10 (R212) -/
  | adcEbGb (e : EOperand) (g : RegNum)
  /-- ADC Ev,Gv: 0x11 (R212) -/
  | adcEvGv (e : EOperand) (g : RegNum)
  /-- ADC Gb,Eb: 0x12 (R212) -/
  | adcGbEb (g : RegNum) (e : EOperand)
  /-- ADC Gv,Ev: 0x13 (R212) -/
  | adcGvEv (g : RegNum) (e : EOperand)
  /-- ADC AL,Ib: 0x14 (R212) -/
  | adcAlIb (ib : Byte)
  /-- ADC eAX,Iv: 0x15 (R212) -/
  | adcEaxIv (iv : ImmV)
  /-- ADC Eb,Ib: 0x80 /2 (R212) -/
  | adcEbIb (e : EOperand) (ib : Byte)
  /-- ADC Ev,Iv: 0x81 /2 (R212) -/
  | adcEvIv (e : EOperand) (iv : ImmV)
  /-- ADC Ev,Ibs: 0x83 /2 (R212) -/
  | adcEvIbs (e : EOperand) (ib : Byte)
  /-- SBB Eb,Gb: 0x18 (R213) -/
  | sbbEbGb (e : EOperand) (g : RegNum)
  /-- SBB Ev,Gv: 0x19 (R213) -/
  | sbbEvGv (e : EOperand) (g : RegNum)
  /-- SBB Gb,Eb: 0x1A (R213) -/
  | sbbGbEb (g : RegNum) (e : EOperand)
  /-- SBB Gv,Ev: 0x1B (R213) -/
  | sbbGvEv (g : RegNum) (e : EOperand)
  /-- SBB AL,Ib: 0x1C (R213) -/
  | sbbAlIb (ib : Byte)
  /-- SBB eAX,Iv: 0x1D (R213) -/
  | sbbEaxIv (iv : ImmV)
  /-- SBB Eb,Ib: 0x80 /3 (R213) -/
  | sbbEbIb (e : EOperand) (ib : Byte)
  /-- SBB Ev,Iv: 0x81 /3 (R213) -/
  | sbbEvIv (e : EOperand) (iv : ImmV)
  /-- SBB Ev,Ibs: 0x83 /3 (R213) -/
  | sbbEvIbs (e : EOperand) (ib : Byte)
  /-- AND Eb,Gb: 0x20 (R214) -/
  | andEbGb (e : EOperand) (g : RegNum)
  /-- AND Ev,Gv: 0x21 (R214) -/
  | andEvGv (e : EOperand) (g : RegNum)
  /-- AND Gb,Eb: 0x22 (R214) -/
  | andGbEb (g : RegNum) (e : EOperand)
  /-- AND Gv,Ev: 0x23 (R214) -/
  | andGvEv (g : RegNum) (e : EOperand)
  /-- AND AL,Ib: 0x24 (R214) -/
  | andAlIb (ib : Byte)
  /-- AND eAX,Iv: 0x25 (R214) -/
  | andEaxIv (iv : ImmV)
  /-- AND Eb,Ib: 0x80 /4 (R214) -/
  | andEbIb (e : EOperand) (ib : Byte)
  /-- AND Ev,Iv: 0x81 /4 (R214) -/
  | andEvIv (e : EOperand) (iv : ImmV)
  /-- AND Ev,Ibs: 0x83 /4 (R214) -/
  | andEvIbs (e : EOperand) (ib : Byte)
  /-- SUB Eb,Gb: 0x28 (R215) -/
  | subEbGb (e : EOperand) (g : RegNum)
  /-- SUB Ev,Gv: 0x29 (R215) -/
  | subEvGv (e : EOperand) (g : RegNum)
  /-- SUB Gb,Eb: 0x2A (R215) -/
  | subGbEb (g : RegNum) (e : EOperand)
  /-- SUB Gv,Ev: 0x2B (R215) -/
  | subGvEv (g : RegNum) (e : EOperand)
  /-- SUB AL,Ib: 0x2C (R215) -/
  | subAlIb (ib : Byte)
  /-- SUB eAX,Iv: 0x2D (R215) -/
  | subEaxIv (iv : ImmV)
  /-- SUB Eb,Ib: 0x80 /5 (R215) -/
  | subEbIb (e : EOperand) (ib : Byte)
  /-- SUB Ev,Iv: 0x81 /5 (R215) -/
  | subEvIv (e : EOperand) (iv : ImmV)
  /-- SUB Ev,Ibs: 0x83 /5 (R215) -/
  | subEvIbs (e : EOperand) (ib : Byte)
  /-- XOR Eb,Gb: 0x30 (R216) -/
  | xorEbGb (e : EOperand) (g : RegNum)
  /-- XOR Ev,Gv: 0x31 (R216) -/
  | xorEvGv (e : EOperand) (g : RegNum)
  /-- XOR Gb,Eb: 0x32 (R216) -/
  | xorGbEb (g : RegNum) (e : EOperand)
  /-- XOR Gv,Ev: 0x33 (R216) -/
  | xorGvEv (g : RegNum) (e : EOperand)
  /-- XOR AL,Ib: 0x34 (R216) -/
  | xorAlIb (ib : Byte)
  /-- XOR eAX,Iv: 0x35 (R216) -/
  | xorEaxIv (iv : ImmV)
  /-- XOR Eb,Ib: 0x80 /6 (R216) -/
  | xorEbIb (e : EOperand) (ib : Byte)
  /-- XOR Ev,Iv: 0x81 /6 (R216) -/
  | xorEvIv (e : EOperand) (iv : ImmV)
  /-- XOR Ev,Ibs: 0x83 /6 (R216) -/
  | xorEvIbs (e : EOperand) (ib : Byte)
  /-- CMP Eb,Gb: 0x38 (R217) -/
  | cmpEbGb (e : EOperand) (g : RegNum)
  /-- CMP Ev,Gv: 0x39 (R217) -/
  | cmpEvGv (e : EOperand) (g : RegNum)
  /-- CMP Gb,Eb: 0x3A (R217) -/
  | cmpGbEb (g : RegNum) (e : EOperand)
  /-- CMP Gv,Ev: 0x3B (R217) -/
  | cmpGvEv (g : RegNum) (e : EOperand)
  /-- CMP AL,Ib: 0x3C (R217) -/
  | cmpAlIb (ib : Byte)
  /-- CMP eAX,Iv: 0x3D (R217) -/
  | cmpEaxIv (iv : ImmV)
  /-- CMP Eb,Ib: 0x80 /7 (R217) -/
  | cmpEbIb (e : EOperand) (ib : Byte)
  /-- CMP Ev,Iv: 0x81 /7 (R217) -/
  | cmpEvIv (e : EOperand) (iv : ImmV)
  /-- CMP Ev,Ibs: 0x83 /7 (R217) -/
  | cmpEvIbs (e : EOperand) (ib : Byte)
  /-- PUSH ES: 0x06 (R306) -/
  | pushEs
  /-- PUSH CS: 0x0E (R306) -/
  | pushCs
  /-- PUSH SS: 0x16 (R306) -/
  | pushSs
  /-- PUSH DS: 0x1E (R306) -/
  | pushDs
  /-- POP ES: 0x07 (R307) -/
  | popEs
  /-- POP SS: 0x17 (R307) -/
  | popSs
  /-- POP DS: 0x1F (R307) -/
  | popDs
  /-- the prefix byte 0x26, segment override (R104) -/
  | prefixEs
  /-- the prefix byte 0x2E, segment override (R104) -/
  | prefixCs
  /-- the prefix byte 0x36, segment override (R104) -/
  | prefixSs
  /-- the prefix byte 0x3E, segment override (R104) -/
  | prefixDs
  /-- the prefix byte 0x66, operand-size override (R104) -/
  | prefixOpsize
  /-- INC r: 0x40+r (R220) -/
  | incR (r : RegNum)
  /-- DEC r: 0x48+r (R221) -/
  | decR (r : RegNum)
  /-- PUSH r: 0x50+r (R302) -/
  | pushR (r : RegNum)
  /-- POP r: 0x58+r (R303) -/
  | popR (r : RegNum)
  /-- PUSH Iv: 0x68 (R304) -/
  | pushIv (iv : ImmV)
  /-- PUSH Ibs: 0x6A (R304) -/
  | pushIbs (ib : Byte)
  /-- JO Jb: 0x70 (R334) -/
  | jo (rel : Byte)
  /-- JNO Jb: 0x71 (R335) -/
  | jno (rel : Byte)
  /-- JB Jb: 0x72 (R336) -/
  | jb (rel : Byte)
  /-- JAE Jb: 0x73 (R337) -/
  | jae (rel : Byte)
  /-- JE Jb: 0x74 (R338) -/
  | je (rel : Byte)
  /-- JNE Jb: 0x75 (R339) -/
  | jne (rel : Byte)
  /-- JBE Jb: 0x76 (R340) -/
  | jbe (rel : Byte)
  /-- JA Jb: 0x77 (R341) -/
  | ja (rel : Byte)
  /-- JS Jb: 0x78 (R342) -/
  | js (rel : Byte)
  /-- JNS Jb: 0x79 (R343) -/
  | jns (rel : Byte)
  /-- JP Jb: 0x7A (R344) -/
  | jp (rel : Byte)
  /-- JNP Jb: 0x7B (R345) -/
  | jnp (rel : Byte)
  /-- JL Jb: 0x7C (R346) -/
  | jl (rel : Byte)
  /-- JGE Jb: 0x7D (R347) -/
  | jge (rel : Byte)
  /-- JLE Jb: 0x7E (R348) -/
  | jle (rel : Byte)
  /-- JG Jb: 0x7F (R349) -/
  | jg (rel : Byte)
  /-- TEST Eb,Gb: 0x84 (R218) -/
  | testEbGb (e : EOperand) (g : RegNum)
  /-- TEST Ev,Gv: 0x85 (R218) -/
  | testEvGv (e : EOperand) (g : RegNum)
  /-- XCHG Eb,Gb: 0x86 (R160) -/
  | xchgEbGb (e : EOperand) (g : RegNum)
  /-- XCHG Ev,Gv: 0x87 (R160) -/
  | xchgEvGv (e : EOperand) (g : RegNum)
  /-- MOV Eb,Gb: 0x88 (R150) -/
  | movEbGb (e : EOperand) (g : RegNum)
  /-- MOV Ev,Gv: 0x89 (R150) -/
  | movEvGv (e : EOperand) (g : RegNum)
  /-- MOV Gb,Eb: 0x8A (R151) -/
  | movGbEb (g : RegNum) (e : EOperand)
  /-- MOV Gv,Ev: 0x8B (R151) -/
  | movGvEv (g : RegNum) (e : EOperand)
  /-- MOV Ew,Sw: 0x8C (R156) -/
  | movEwSw (e : EOperand) (sr : SReg)
  /-- MOV ES,Ew: 0x8E /0 (R157) -/
  | movEsEw (e : EOperand)
  /-- MOV SS,Ew: 0x8E /2 (R157) -/
  | movSsEw (e : EOperand)
  /-- MOV DS,Ew: 0x8E /3 (R157) -/
  | movDsEw (e : EOperand)
  /-- LEA Gv,M: 0x8D (R162) -/
  | leaGvM (g : RegNum) (m : MemOperand)
  /-- POP Ev: 0x8F /0 (R305) -/
  | popEv (e : EOperand)
  /-- NOP: 0x90 (R168) -/
  | nop
  /-- XCHG eAX,eCX: 0x91 (R161) -/
  | xchgEaxEcx
  /-- XCHG eAX,eDX: 0x92 (R161) -/
  | xchgEaxEdx
  /-- XCHG eAX,eBX: 0x93 (R161) -/
  | xchgEaxEbx
  /-- XCHG eAX,eSP: 0x94 (R161) -/
  | xchgEaxEsp
  /-- XCHG eAX,eBP: 0x95 (R161) -/
  | xchgEaxEbp
  /-- XCHG eAX,eSI: 0x96 (R161) -/
  | xchgEaxEsi
  /-- XCHG eAX,eDI: 0x97 (R161) -/
  | xchgEaxEdi
  /-- CBW: 0x98 (R164) -/
  | cbw
  /-- CWD: 0x99 (R165) -/
  | cwd
  /-- CALL Ap: 0x9A (R358) -/
  | callAp (off : Half) (sel : Half)
  /-- PUSHF: 0x9C (R308) -/
  | pushf
  /-- POPF: 0x9D (R309) -/
  | popf
  /-- SAHF: 0x9E (R167) -/
  | sahf
  /-- LAHF: 0x9F (R166) -/
  | lahf
  /-- MOV AL,Ob: 0xA0 (R154) -/
  | movAlOb (off : Half)
  /-- MOV eAX,Ov: 0xA1 (R154) -/
  | movEaxOv (off : Half)
  /-- MOV Ob,AL: 0xA2 (R155) -/
  | movObAl (off : Half)
  /-- MOV Ov,eAX: 0xA3 (R155) -/
  | movOvEax (off : Half)
  /-- TEST AL,Ib: 0xA8 (R218) -/
  | testAlIb (ib : Byte)
  /-- TEST eAX,Iv: 0xA9 (R218) -/
  | testEaxIv (iv : ImmV)
  /-- MOV r8,Ib: 0xB0+r (R152) -/
  | movR8Ib (r : RegNum) (ib : Byte)
  /-- MOV r,Iv: 0xB8+r (R152) -/
  | movRIv (r : RegNum) (iv : ImmV)
  /-- ROL Eb,Ib: 0xC0 /0 (R262) -/
  | rolEbIb (e : EOperand) (ib : Byte)
  /-- ROR Eb,Ib: 0xC0 /1 (R263) -/
  | rorEbIb (e : EOperand) (ib : Byte)
  /-- RCL Eb,Ib: 0xC0 /2 (R264) -/
  | rclEbIb (e : EOperand) (ib : Byte)
  /-- RCR Eb,Ib: 0xC0 /3 (R265) -/
  | rcrEbIb (e : EOperand) (ib : Byte)
  /-- SHL Eb,Ib: 0xC0 /4 (R266) -/
  | shlEbIb (e : EOperand) (ib : Byte)
  /-- SHR Eb,Ib: 0xC0 /5 (R267) -/
  | shrEbIb (e : EOperand) (ib : Byte)
  /-- SAR Eb,Ib: 0xC0 /7 (R268) -/
  | sarEbIb (e : EOperand) (ib : Byte)
  /-- ROL Ev,Ib: 0xC1 /0 (R262) -/
  | rolEvIb (e : EOperand) (ib : Byte)
  /-- ROR Ev,Ib: 0xC1 /1 (R263) -/
  | rorEvIb (e : EOperand) (ib : Byte)
  /-- RCL Ev,Ib: 0xC1 /2 (R264) -/
  | rclEvIb (e : EOperand) (ib : Byte)
  /-- RCR Ev,Ib: 0xC1 /3 (R265) -/
  | rcrEvIb (e : EOperand) (ib : Byte)
  /-- SHL Ev,Ib: 0xC1 /4 (R266) -/
  | shlEvIb (e : EOperand) (ib : Byte)
  /-- SHR Ev,Ib: 0xC1 /5 (R267) -/
  | shrEvIb (e : EOperand) (ib : Byte)
  /-- SAR Ev,Ib: 0xC1 /7 (R268) -/
  | sarEvIb (e : EOperand) (ib : Byte)
  /-- ROL Eb,1: 0xD0 /0 (R262) -/
  | rolEbOne (e : EOperand)
  /-- ROR Eb,1: 0xD0 /1 (R263) -/
  | rorEbOne (e : EOperand)
  /-- RCL Eb,1: 0xD0 /2 (R264) -/
  | rclEbOne (e : EOperand)
  /-- RCR Eb,1: 0xD0 /3 (R265) -/
  | rcrEbOne (e : EOperand)
  /-- SHL Eb,1: 0xD0 /4 (R266) -/
  | shlEbOne (e : EOperand)
  /-- SHR Eb,1: 0xD0 /5 (R267) -/
  | shrEbOne (e : EOperand)
  /-- SAR Eb,1: 0xD0 /7 (R268) -/
  | sarEbOne (e : EOperand)
  /-- ROL Ev,1: 0xD1 /0 (R262) -/
  | rolEvOne (e : EOperand)
  /-- ROR Ev,1: 0xD1 /1 (R263) -/
  | rorEvOne (e : EOperand)
  /-- RCL Ev,1: 0xD1 /2 (R264) -/
  | rclEvOne (e : EOperand)
  /-- RCR Ev,1: 0xD1 /3 (R265) -/
  | rcrEvOne (e : EOperand)
  /-- SHL Ev,1: 0xD1 /4 (R266) -/
  | shlEvOne (e : EOperand)
  /-- SHR Ev,1: 0xD1 /5 (R267) -/
  | shrEvOne (e : EOperand)
  /-- SAR Ev,1: 0xD1 /7 (R268) -/
  | sarEvOne (e : EOperand)
  /-- ROL Eb,CL: 0xD2 /0 (R262) -/
  | rolEbCl (e : EOperand)
  /-- ROR Eb,CL: 0xD2 /1 (R263) -/
  | rorEbCl (e : EOperand)
  /-- RCL Eb,CL: 0xD2 /2 (R264) -/
  | rclEbCl (e : EOperand)
  /-- RCR Eb,CL: 0xD2 /3 (R265) -/
  | rcrEbCl (e : EOperand)
  /-- SHL Eb,CL: 0xD2 /4 (R266) -/
  | shlEbCl (e : EOperand)
  /-- SHR Eb,CL: 0xD2 /5 (R267) -/
  | shrEbCl (e : EOperand)
  /-- SAR Eb,CL: 0xD2 /7 (R268) -/
  | sarEbCl (e : EOperand)
  /-- ROL Ev,CL: 0xD3 /0 (R262) -/
  | rolEvCl (e : EOperand)
  /-- ROR Ev,CL: 0xD3 /1 (R263) -/
  | rorEvCl (e : EOperand)
  /-- RCL Ev,CL: 0xD3 /2 (R264) -/
  | rclEvCl (e : EOperand)
  /-- RCR Ev,CL: 0xD3 /3 (R265) -/
  | rcrEvCl (e : EOperand)
  /-- SHL Ev,CL: 0xD3 /4 (R266) -/
  | shlEvCl (e : EOperand)
  /-- SHR Ev,CL: 0xD3 /5 (R267) -/
  | shrEvCl (e : EOperand)
  /-- SAR Ev,CL: 0xD3 /7 (R268) -/
  | sarEvCl (e : EOperand)
  /-- RET Iw: 0xC2 (R361) -/
  | retIw (iw : Half)
  /-- RET: 0xC3 (R360) -/
  | ret
  /-- MOV Eb,Ib: 0xC6 /0 (R153) -/
  | movEbIb (e : EOperand) (ib : Byte)
  /-- MOV Ev,Iv: 0xC7 /0 (R153) -/
  | movEvIv (e : EOperand) (iv : ImmV)
  /-- RETF Iw: 0xCA (R363) -/
  | retfIw (iw : Half)
  /-- RETF: 0xCB (R362) -/
  | retf
  /-- INT3: 0xCC (R370) -/
  | int3
  /-- INT Ib: 0xCD (R371) -/
  | intIb (ib : Byte)
  /-- INTO: 0xCE (R372) -/
  | into
  /-- IRET: 0xCF (R373) -/
  | iret
  /-- XLAT: 0xD7 (R163) -/
  | xlat
  /-- LOOPNE Jb: 0xE0 (R353) -/
  | loopne (rel : Byte)
  /-- LOOPE Jb: 0xE1 (R352) -/
  | loope (rel : Byte)
  /-- LOOP Jb: 0xE2 (R351) -/
  | loop (rel : Byte)
  /-- JCXZ Jb: 0xE3 (R350) -/
  | jcxz (rel : Byte)
  /-- IN AL,Ib: 0xE4 (R400) -/
  | inAlIb (ib : Byte)
  /-- IN eAX,Ib: 0xE5 (R400) -/
  | inEaxIb (ib : Byte)
  /-- OUT Ib,AL: 0xE6 (R402) -/
  | outIbAl (ib : Byte)
  /-- OUT Ib,eAX: 0xE7 (R402) -/
  | outIbEax (ib : Byte)
  /-- CALL Jv: 0xE8 (R355) -/
  | callJv (rel : Half)
  /-- JMP Jv: 0xE9 (R331) -/
  | jmpJv (rel : Half)
  /-- JMP Ap: 0xEA (R333) -/
  | jmpAp (off : Half) (sel : Half)
  /-- JMP Jb: 0xEB (R330) -/
  | jmpJb (rel : Byte)
  /-- IN AL,DX: 0xEC (R401) -/
  | inAlDx
  /-- IN eAX,DX: 0xED (R401) -/
  | inEaxDx
  /-- OUT DX,AL: 0xEE (R403) -/
  | outDxAl
  /-- OUT DX,eAX: 0xEF (R403) -/
  | outDxEax
  /-- HLT: 0xF4 (R457) -/
  | hlt
  /-- CMC: 0xF5 (R452) -/
  | cmc
  /-- TEST Eb,Ib: 0xF6 /0 (R218) -/
  | testEbIb (e : EOperand) (ib : Byte)
  /-- TEST Ev,Iv: 0xF7 /0 (R218) -/
  | testEvIv (e : EOperand) (iv : ImmV)
  /-- NOT Eb: 0xF6 /2 (R223) -/
  | notEb (e : EOperand)
  /-- NOT Ev: 0xF7 /2 (R223) -/
  | notEv (e : EOperand)
  /-- NEG Eb: 0xF6 /3 (R222) -/
  | negEb (e : EOperand)
  /-- NEG Ev: 0xF7 /3 (R222) -/
  | negEv (e : EOperand)
  /-- MUL Eb: 0xF6 /4 (R230) -/
  | mulEb (e : EOperand)
  /-- MUL Ev: 0xF7 /4 (R230) -/
  | mulEv (e : EOperand)
  /-- IMUL Eb: 0xF6 /5 (R231) -/
  | imulEb (e : EOperand)
  /-- IMUL Ev: 0xF7 /5 (R231) -/
  | imulEv (e : EOperand)
  /-- DIV Eb: 0xF6 /6 (R232) -/
  | divEb (e : EOperand)
  /-- DIV Ev: 0xF7 /6 (R232) -/
  | divEv (e : EOperand)
  /-- IDIV Eb: 0xF6 /7 (R233) -/
  | idivEb (e : EOperand)
  /-- IDIV Ev: 0xF7 /7 (R233) -/
  | idivEv (e : EOperand)
  /-- CLC: 0xF8 (R450) -/
  | clc
  /-- STC: 0xF9 (R451) -/
  | stc
  /-- CLI: 0xFA (R453) -/
  | cli
  /-- STI: 0xFB (R454) -/
  | sti
  /-- INC Eb: 0xFE /0 (R220) -/
  | incEb (e : EOperand)
  /-- DEC Eb: 0xFE /1 (R221) -/
  | decEb (e : EOperand)
  /-- INC Ev: 0xFF /0 (R220) -/
  | incEv (e : EOperand)
  /-- DEC Ev: 0xFF /1 (R221) -/
  | decEv (e : EOperand)
  /-- CALL Ev: 0xFF /2 (R356) -/
  | callEv (e : EOperand)
  /-- CALL Mp: 0xFF /3 (R357) -/
  | callMp (m : MemOperand)
  /-- JMP Ev: 0xFF /4 (R332) -/
  | jmpEv (e : EOperand)
  /-- JMP Mp: 0xFF /5 (R359) -/
  | jmpMp (m : MemOperand)
  /-- PUSH Ev: 0xFF /6 (R304) -/
  | pushEv (e : EOperand)
deriving DecidableEq, Repr

/-- Is this one of the five prefix bytes (R104)? -/
def Instr.isPrefixByte : Instr → Bool
  | .addEbGb _ _ => false
  | .addEvGv _ _ => false
  | .addGbEb _ _ => false
  | .addGvEv _ _ => false
  | .addAlIb _ => false
  | .addEaxIv _ => false
  | .addEbIb _ _ => false
  | .addEvIv _ _ => false
  | .addEvIbs _ _ => false
  | .orEbGb _ _ => false
  | .orEvGv _ _ => false
  | .orGbEb _ _ => false
  | .orGvEv _ _ => false
  | .orAlIb _ => false
  | .orEaxIv _ => false
  | .orEbIb _ _ => false
  | .orEvIv _ _ => false
  | .orEvIbs _ _ => false
  | .adcEbGb _ _ => false
  | .adcEvGv _ _ => false
  | .adcGbEb _ _ => false
  | .adcGvEv _ _ => false
  | .adcAlIb _ => false
  | .adcEaxIv _ => false
  | .adcEbIb _ _ => false
  | .adcEvIv _ _ => false
  | .adcEvIbs _ _ => false
  | .sbbEbGb _ _ => false
  | .sbbEvGv _ _ => false
  | .sbbGbEb _ _ => false
  | .sbbGvEv _ _ => false
  | .sbbAlIb _ => false
  | .sbbEaxIv _ => false
  | .sbbEbIb _ _ => false
  | .sbbEvIv _ _ => false
  | .sbbEvIbs _ _ => false
  | .andEbGb _ _ => false
  | .andEvGv _ _ => false
  | .andGbEb _ _ => false
  | .andGvEv _ _ => false
  | .andAlIb _ => false
  | .andEaxIv _ => false
  | .andEbIb _ _ => false
  | .andEvIv _ _ => false
  | .andEvIbs _ _ => false
  | .subEbGb _ _ => false
  | .subEvGv _ _ => false
  | .subGbEb _ _ => false
  | .subGvEv _ _ => false
  | .subAlIb _ => false
  | .subEaxIv _ => false
  | .subEbIb _ _ => false
  | .subEvIv _ _ => false
  | .subEvIbs _ _ => false
  | .xorEbGb _ _ => false
  | .xorEvGv _ _ => false
  | .xorGbEb _ _ => false
  | .xorGvEv _ _ => false
  | .xorAlIb _ => false
  | .xorEaxIv _ => false
  | .xorEbIb _ _ => false
  | .xorEvIv _ _ => false
  | .xorEvIbs _ _ => false
  | .cmpEbGb _ _ => false
  | .cmpEvGv _ _ => false
  | .cmpGbEb _ _ => false
  | .cmpGvEv _ _ => false
  | .cmpAlIb _ => false
  | .cmpEaxIv _ => false
  | .cmpEbIb _ _ => false
  | .cmpEvIv _ _ => false
  | .cmpEvIbs _ _ => false
  | .pushEs => false
  | .pushCs => false
  | .pushSs => false
  | .pushDs => false
  | .popEs => false
  | .popSs => false
  | .popDs => false
  | .prefixEs => true
  | .prefixCs => true
  | .prefixSs => true
  | .prefixDs => true
  | .prefixOpsize => true
  | .incR _ => false
  | .decR _ => false
  | .pushR _ => false
  | .popR _ => false
  | .pushIv _ => false
  | .pushIbs _ => false
  | .jo _ => false
  | .jno _ => false
  | .jb _ => false
  | .jae _ => false
  | .je _ => false
  | .jne _ => false
  | .jbe _ => false
  | .ja _ => false
  | .js _ => false
  | .jns _ => false
  | .jp _ => false
  | .jnp _ => false
  | .jl _ => false
  | .jge _ => false
  | .jle _ => false
  | .jg _ => false
  | .testEbGb _ _ => false
  | .testEvGv _ _ => false
  | .xchgEbGb _ _ => false
  | .xchgEvGv _ _ => false
  | .movEbGb _ _ => false
  | .movEvGv _ _ => false
  | .movGbEb _ _ => false
  | .movGvEv _ _ => false
  | .movEwSw _ _ => false
  | .movEsEw _ => false
  | .movSsEw _ => false
  | .movDsEw _ => false
  | .leaGvM _ _ => false
  | .popEv _ => false
  | .nop => false
  | .xchgEaxEcx => false
  | .xchgEaxEdx => false
  | .xchgEaxEbx => false
  | .xchgEaxEsp => false
  | .xchgEaxEbp => false
  | .xchgEaxEsi => false
  | .xchgEaxEdi => false
  | .cbw => false
  | .cwd => false
  | .callAp _ _ => false
  | .pushf => false
  | .popf => false
  | .sahf => false
  | .lahf => false
  | .movAlOb _ => false
  | .movEaxOv _ => false
  | .movObAl _ => false
  | .movOvEax _ => false
  | .testAlIb _ => false
  | .testEaxIv _ => false
  | .movR8Ib _ _ => false
  | .movRIv _ _ => false
  | .rolEbIb _ _ => false
  | .rorEbIb _ _ => false
  | .rclEbIb _ _ => false
  | .rcrEbIb _ _ => false
  | .shlEbIb _ _ => false
  | .shrEbIb _ _ => false
  | .sarEbIb _ _ => false
  | .rolEvIb _ _ => false
  | .rorEvIb _ _ => false
  | .rclEvIb _ _ => false
  | .rcrEvIb _ _ => false
  | .shlEvIb _ _ => false
  | .shrEvIb _ _ => false
  | .sarEvIb _ _ => false
  | .rolEbOne _ => false
  | .rorEbOne _ => false
  | .rclEbOne _ => false
  | .rcrEbOne _ => false
  | .shlEbOne _ => false
  | .shrEbOne _ => false
  | .sarEbOne _ => false
  | .rolEvOne _ => false
  | .rorEvOne _ => false
  | .rclEvOne _ => false
  | .rcrEvOne _ => false
  | .shlEvOne _ => false
  | .shrEvOne _ => false
  | .sarEvOne _ => false
  | .rolEbCl _ => false
  | .rorEbCl _ => false
  | .rclEbCl _ => false
  | .rcrEbCl _ => false
  | .shlEbCl _ => false
  | .shrEbCl _ => false
  | .sarEbCl _ => false
  | .rolEvCl _ => false
  | .rorEvCl _ => false
  | .rclEvCl _ => false
  | .rcrEvCl _ => false
  | .shlEvCl _ => false
  | .shrEvCl _ => false
  | .sarEvCl _ => false
  | .retIw _ => false
  | .ret => false
  | .movEbIb _ _ => false
  | .movEvIv _ _ => false
  | .retfIw _ => false
  | .retf => false
  | .int3 => false
  | .intIb _ => false
  | .into => false
  | .iret => false
  | .xlat => false
  | .loopne _ => false
  | .loope _ => false
  | .loop _ => false
  | .jcxz _ => false
  | .inAlIb _ => false
  | .inEaxIb _ => false
  | .outIbAl _ => false
  | .outIbEax _ => false
  | .callJv _ => false
  | .jmpJv _ => false
  | .jmpAp _ _ => false
  | .jmpJb _ => false
  | .inAlDx => false
  | .inEaxDx => false
  | .outDxAl => false
  | .outDxEax => false
  | .hlt => false
  | .cmc => false
  | .testEbIb _ _ => false
  | .testEvIv _ _ => false
  | .notEb _ => false
  | .notEv _ => false
  | .negEb _ => false
  | .negEv _ => false
  | .mulEb _ => false
  | .mulEv _ => false
  | .imulEb _ => false
  | .imulEv _ => false
  | .divEb _ => false
  | .divEv _ => false
  | .idivEb _ => false
  | .idivEv _ => false
  | .clc => false
  | .stc => false
  | .cli => false
  | .sti => false
  | .incEb _ => false
  | .decEb _ => false
  | .incEv _ => false
  | .decEv _ => false
  | .callEv _ => false
  | .callMp _ => false
  | .jmpEv _ => false
  | .jmpMp _ => false
  | .pushEv _ => false

end Sys2Proof
end

