-- ==== Sys2Proof/WellFormed.lean ====
section
/-! DEFINITION. Which instructions have an encoding, and under which value of the operand-size prefix
(R107, R110, R114, R131). -/

namespace Sys2Proof

/-- `mod` = 0 with `rm` = 6 is the direct form, so the base BP alone has no encoding (R110). -/
def MemOperand.wellFormed : MemOperand → Bool
  | .direct _ => true
  | .base b => b != .bp
  | .disp8 _ _ => true
  | .disp16 _ _ => true

/-- A register operand, or a memory operand with an encoding (R109, R110). -/
def EOperand.wellFormed : EOperand → Bool
  | .reg _ => true
  | .mem m => m.wellFormed

/-- An Iv immediate has the width the operand-size prefix selects (R106, R114). -/
def ImmV.wellFormed (opsize : Bool) : ImmV → Bool
  | .imm16 _ => !opsize
  | .imm32 _ => opsize

/-- The operand-size class of each instruction (R107, R122). The prefix bytes themselves may stand anywhere among
the prefixes (R105). -/
def Instr.opsizeClass : Instr → OpsizeClass
  | .addEbGb _ _ => .ignored
  | .addEvGv _ _ => .selects
  | .addGbEb _ _ => .ignored
  | .addGvEv _ _ => .selects
  | .addAlIb _ => .ignored
  | .addEaxIv _ => .selects
  | .addEbIb _ _ => .ignored
  | .addEvIv _ _ => .selects
  | .addEvIbs _ _ => .selects
  | .orEbGb _ _ => .ignored
  | .orEvGv _ _ => .selects
  | .orGbEb _ _ => .ignored
  | .orGvEv _ _ => .selects
  | .orAlIb _ => .ignored
  | .orEaxIv _ => .selects
  | .orEbIb _ _ => .ignored
  | .orEvIv _ _ => .selects
  | .orEvIbs _ _ => .selects
  | .adcEbGb _ _ => .ignored
  | .adcEvGv _ _ => .selects
  | .adcGbEb _ _ => .ignored
  | .adcGvEv _ _ => .selects
  | .adcAlIb _ => .ignored
  | .adcEaxIv _ => .selects
  | .adcEbIb _ _ => .ignored
  | .adcEvIv _ _ => .selects
  | .adcEvIbs _ _ => .selects
  | .sbbEbGb _ _ => .ignored
  | .sbbEvGv _ _ => .selects
  | .sbbGbEb _ _ => .ignored
  | .sbbGvEv _ _ => .selects
  | .sbbAlIb _ => .ignored
  | .sbbEaxIv _ => .selects
  | .sbbEbIb _ _ => .ignored
  | .sbbEvIv _ _ => .selects
  | .sbbEvIbs _ _ => .selects
  | .andEbGb _ _ => .ignored
  | .andEvGv _ _ => .selects
  | .andGbEb _ _ => .ignored
  | .andGvEv _ _ => .selects
  | .andAlIb _ => .ignored
  | .andEaxIv _ => .selects
  | .andEbIb _ _ => .ignored
  | .andEvIv _ _ => .selects
  | .andEvIbs _ _ => .selects
  | .subEbGb _ _ => .ignored
  | .subEvGv _ _ => .selects
  | .subGbEb _ _ => .ignored
  | .subGvEv _ _ => .selects
  | .subAlIb _ => .ignored
  | .subEaxIv _ => .selects
  | .subEbIb _ _ => .ignored
  | .subEvIv _ _ => .selects
  | .subEvIbs _ _ => .selects
  | .xorEbGb _ _ => .ignored
  | .xorEvGv _ _ => .selects
  | .xorGbEb _ _ => .ignored
  | .xorGvEv _ _ => .selects
  | .xorAlIb _ => .ignored
  | .xorEaxIv _ => .selects
  | .xorEbIb _ _ => .ignored
  | .xorEvIv _ _ => .selects
  | .xorEvIbs _ _ => .selects
  | .cmpEbGb _ _ => .ignored
  | .cmpEvGv _ _ => .selects
  | .cmpGbEb _ _ => .ignored
  | .cmpGvEv _ _ => .selects
  | .cmpAlIb _ => .ignored
  | .cmpEaxIv _ => .selects
  | .cmpEbIb _ _ => .ignored
  | .cmpEvIv _ _ => .selects
  | .cmpEvIbs _ _ => .selects
  | .pushEs => .faults
  | .pushCs => .faults
  | .pushSs => .faults
  | .pushDs => .faults
  | .popEs => .faults
  | .popSs => .faults
  | .popDs => .faults
  | .prefixEs => .ignored
  | .prefixCs => .ignored
  | .prefixSs => .ignored
  | .prefixDs => .ignored
  | .prefixOpsize => .ignored
  | .incR _ => .selects
  | .decR _ => .selects
  | .pushR _ => .selects
  | .popR _ => .selects
  | .pushIv _ => .selects
  | .pushIbs _ => .selects
  | .jo _ => .faults
  | .jno _ => .faults
  | .jb _ => .faults
  | .jae _ => .faults
  | .je _ => .faults
  | .jne _ => .faults
  | .jbe _ => .faults
  | .ja _ => .faults
  | .js _ => .faults
  | .jns _ => .faults
  | .jp _ => .faults
  | .jnp _ => .faults
  | .jl _ => .faults
  | .jge _ => .faults
  | .jle _ => .faults
  | .jg _ => .faults
  | .testEbGb _ _ => .ignored
  | .testEvGv _ _ => .selects
  | .xchgEbGb _ _ => .ignored
  | .xchgEvGv _ _ => .selects
  | .movEbGb _ _ => .ignored
  | .movEvGv _ _ => .selects
  | .movGbEb _ _ => .ignored
  | .movGvEv _ _ => .selects
  | .movEwSw _ _ => .faults
  | .movEsEw _ => .faults
  | .movSsEw _ => .faults
  | .movDsEw _ => .faults
  | .leaGvM _ _ => .selects
  | .popEv _ => .selects
  | .nop => .ignored
  | .xchgEaxEcx => .selects
  | .xchgEaxEdx => .selects
  | .xchgEaxEbx => .selects
  | .xchgEaxEsp => .selects
  | .xchgEaxEbp => .selects
  | .xchgEaxEsi => .selects
  | .xchgEaxEdi => .selects
  | .cbw => .selects
  | .cwd => .selects
  | .callAp _ _ => .faults
  | .pushf => .faults
  | .popf => .faults
  | .sahf => .ignored
  | .lahf => .ignored
  | .movAlOb _ => .ignored
  | .movEaxOv _ => .selects
  | .movObAl _ => .ignored
  | .movOvEax _ => .selects
  | .testAlIb _ => .ignored
  | .testEaxIv _ => .selects
  | .movR8Ib _ _ => .ignored
  | .movRIv _ _ => .selects
  | .rolEbIb _ _ => .ignored
  | .rorEbIb _ _ => .ignored
  | .rclEbIb _ _ => .ignored
  | .rcrEbIb _ _ => .ignored
  | .shlEbIb _ _ => .ignored
  | .shrEbIb _ _ => .ignored
  | .sarEbIb _ _ => .ignored
  | .rolEvIb _ _ => .selects
  | .rorEvIb _ _ => .selects
  | .rclEvIb _ _ => .selects
  | .rcrEvIb _ _ => .selects
  | .shlEvIb _ _ => .selects
  | .shrEvIb _ _ => .selects
  | .sarEvIb _ _ => .selects
  | .rolEbOne _ => .ignored
  | .rorEbOne _ => .ignored
  | .rclEbOne _ => .ignored
  | .rcrEbOne _ => .ignored
  | .shlEbOne _ => .ignored
  | .shrEbOne _ => .ignored
  | .sarEbOne _ => .ignored
  | .rolEvOne _ => .selects
  | .rorEvOne _ => .selects
  | .rclEvOne _ => .selects
  | .rcrEvOne _ => .selects
  | .shlEvOne _ => .selects
  | .shrEvOne _ => .selects
  | .sarEvOne _ => .selects
  | .rolEbCl _ => .ignored
  | .rorEbCl _ => .ignored
  | .rclEbCl _ => .ignored
  | .rcrEbCl _ => .ignored
  | .shlEbCl _ => .ignored
  | .shrEbCl _ => .ignored
  | .sarEbCl _ => .ignored
  | .rolEvCl _ => .selects
  | .rorEvCl _ => .selects
  | .rclEvCl _ => .selects
  | .rcrEvCl _ => .selects
  | .shlEvCl _ => .selects
  | .shrEvCl _ => .selects
  | .sarEvCl _ => .selects
  | .retIw _ => .faults
  | .ret => .faults
  | .movEbIb _ _ => .ignored
  | .movEvIv _ _ => .selects
  | .retfIw _ => .faults
  | .retf => .faults
  | .int3 => .faults
  | .intIb _ => .faults
  | .into => .faults
  | .iret => .faults
  | .xlat => .ignored
  | .loopne _ => .faults
  | .loope _ => .faults
  | .loop _ => .faults
  | .jcxz _ => .faults
  | .inAlIb _ => .ignored
  | .inEaxIb _ => .selects
  | .outIbAl _ => .ignored
  | .outIbEax _ => .selects
  | .callJv _ => .faults
  | .jmpJv _ => .faults
  | .jmpAp _ _ => .faults
  | .jmpJb _ => .faults
  | .inAlDx => .ignored
  | .inEaxDx => .selects
  | .outDxAl => .ignored
  | .outDxEax => .selects
  | .hlt => .ignored
  | .cmc => .ignored
  | .testEbIb _ _ => .ignored
  | .testEvIv _ _ => .selects
  | .notEb _ => .ignored
  | .notEv _ => .selects
  | .negEb _ => .ignored
  | .negEv _ => .selects
  | .mulEb _ => .ignored
  | .mulEv _ => .selects
  | .imulEb _ => .ignored
  | .imulEv _ => .selects
  | .divEb _ => .ignored
  | .divEv _ => .selects
  | .idivEb _ => .ignored
  | .idivEv _ => .selects
  | .clc => .ignored
  | .stc => .ignored
  | .cli => .ignored
  | .sti => .ignored
  | .incEb _ => .ignored
  | .decEb _ => .ignored
  | .incEv _ => .selects
  | .decEv _ => .selects
  | .callEv _ => .faults
  | .callMp _ => .faults
  | .jmpEv _ => .faults
  | .jmpMp _ => .faults
  | .pushEv _ => .selects

/-- The operands of the instruction have an encoding under this operand-size prefix. -/
def Instr.operandsWellFormed (opsize : Bool) : Instr → Bool
  | .addEbGb e _ => e.wellFormed
  | .addEvGv e _ => e.wellFormed
  | .addGbEb _ e => e.wellFormed
  | .addGvEv _ e => e.wellFormed
  | .addAlIb _ => true
  | .addEaxIv iv => iv.wellFormed opsize
  | .addEbIb e _ => e.wellFormed
  | .addEvIv e iv => e.wellFormed && iv.wellFormed opsize
  | .addEvIbs e _ => e.wellFormed
  | .orEbGb e _ => e.wellFormed
  | .orEvGv e _ => e.wellFormed
  | .orGbEb _ e => e.wellFormed
  | .orGvEv _ e => e.wellFormed
  | .orAlIb _ => true
  | .orEaxIv iv => iv.wellFormed opsize
  | .orEbIb e _ => e.wellFormed
  | .orEvIv e iv => e.wellFormed && iv.wellFormed opsize
  | .orEvIbs e _ => e.wellFormed
  | .adcEbGb e _ => e.wellFormed
  | .adcEvGv e _ => e.wellFormed
  | .adcGbEb _ e => e.wellFormed
  | .adcGvEv _ e => e.wellFormed
  | .adcAlIb _ => true
  | .adcEaxIv iv => iv.wellFormed opsize
  | .adcEbIb e _ => e.wellFormed
  | .adcEvIv e iv => e.wellFormed && iv.wellFormed opsize
  | .adcEvIbs e _ => e.wellFormed
  | .sbbEbGb e _ => e.wellFormed
  | .sbbEvGv e _ => e.wellFormed
  | .sbbGbEb _ e => e.wellFormed
  | .sbbGvEv _ e => e.wellFormed
  | .sbbAlIb _ => true
  | .sbbEaxIv iv => iv.wellFormed opsize
  | .sbbEbIb e _ => e.wellFormed
  | .sbbEvIv e iv => e.wellFormed && iv.wellFormed opsize
  | .sbbEvIbs e _ => e.wellFormed
  | .andEbGb e _ => e.wellFormed
  | .andEvGv e _ => e.wellFormed
  | .andGbEb _ e => e.wellFormed
  | .andGvEv _ e => e.wellFormed
  | .andAlIb _ => true
  | .andEaxIv iv => iv.wellFormed opsize
  | .andEbIb e _ => e.wellFormed
  | .andEvIv e iv => e.wellFormed && iv.wellFormed opsize
  | .andEvIbs e _ => e.wellFormed
  | .subEbGb e _ => e.wellFormed
  | .subEvGv e _ => e.wellFormed
  | .subGbEb _ e => e.wellFormed
  | .subGvEv _ e => e.wellFormed
  | .subAlIb _ => true
  | .subEaxIv iv => iv.wellFormed opsize
  | .subEbIb e _ => e.wellFormed
  | .subEvIv e iv => e.wellFormed && iv.wellFormed opsize
  | .subEvIbs e _ => e.wellFormed
  | .xorEbGb e _ => e.wellFormed
  | .xorEvGv e _ => e.wellFormed
  | .xorGbEb _ e => e.wellFormed
  | .xorGvEv _ e => e.wellFormed
  | .xorAlIb _ => true
  | .xorEaxIv iv => iv.wellFormed opsize
  | .xorEbIb e _ => e.wellFormed
  | .xorEvIv e iv => e.wellFormed && iv.wellFormed opsize
  | .xorEvIbs e _ => e.wellFormed
  | .cmpEbGb e _ => e.wellFormed
  | .cmpEvGv e _ => e.wellFormed
  | .cmpGbEb _ e => e.wellFormed
  | .cmpGvEv _ e => e.wellFormed
  | .cmpAlIb _ => true
  | .cmpEaxIv iv => iv.wellFormed opsize
  | .cmpEbIb e _ => e.wellFormed
  | .cmpEvIv e iv => e.wellFormed && iv.wellFormed opsize
  | .cmpEvIbs e _ => e.wellFormed
  | .pushEs => true
  | .pushCs => true
  | .pushSs => true
  | .pushDs => true
  | .popEs => true
  | .popSs => true
  | .popDs => true
  | .prefixEs => true
  | .prefixCs => true
  | .prefixSs => true
  | .prefixDs => true
  | .prefixOpsize => true
  | .incR _ => true
  | .decR _ => true
  | .pushR _ => true
  | .popR _ => true
  | .pushIv iv => iv.wellFormed opsize
  | .pushIbs _ => true
  | .jo _ => true
  | .jno _ => true
  | .jb _ => true
  | .jae _ => true
  | .je _ => true
  | .jne _ => true
  | .jbe _ => true
  | .ja _ => true
  | .js _ => true
  | .jns _ => true
  | .jp _ => true
  | .jnp _ => true
  | .jl _ => true
  | .jge _ => true
  | .jle _ => true
  | .jg _ => true
  | .testEbGb e _ => e.wellFormed
  | .testEvGv e _ => e.wellFormed
  | .xchgEbGb e _ => e.wellFormed
  | .xchgEvGv e _ => e.wellFormed
  | .movEbGb e _ => e.wellFormed
  | .movEvGv e _ => e.wellFormed
  | .movGbEb _ e => e.wellFormed
  | .movGvEv _ e => e.wellFormed
  | .movEwSw e _ => e.wellFormed
  | .movEsEw e => e.wellFormed
  | .movSsEw e => e.wellFormed
  | .movDsEw e => e.wellFormed
  | .leaGvM _ m => m.wellFormed
  | .popEv e => e.wellFormed
  | .nop => true
  | .xchgEaxEcx => true
  | .xchgEaxEdx => true
  | .xchgEaxEbx => true
  | .xchgEaxEsp => true
  | .xchgEaxEbp => true
  | .xchgEaxEsi => true
  | .xchgEaxEdi => true
  | .cbw => true
  | .cwd => true
  | .callAp _ _ => true
  | .pushf => true
  | .popf => true
  | .sahf => true
  | .lahf => true
  | .movAlOb _ => true
  | .movEaxOv _ => true
  | .movObAl _ => true
  | .movOvEax _ => true
  | .testAlIb _ => true
  | .testEaxIv iv => iv.wellFormed opsize
  | .movR8Ib _ _ => true
  | .movRIv _ iv => iv.wellFormed opsize
  | .rolEbIb e _ => e.wellFormed
  | .rorEbIb e _ => e.wellFormed
  | .rclEbIb e _ => e.wellFormed
  | .rcrEbIb e _ => e.wellFormed
  | .shlEbIb e _ => e.wellFormed
  | .shrEbIb e _ => e.wellFormed
  | .sarEbIb e _ => e.wellFormed
  | .rolEvIb e _ => e.wellFormed
  | .rorEvIb e _ => e.wellFormed
  | .rclEvIb e _ => e.wellFormed
  | .rcrEvIb e _ => e.wellFormed
  | .shlEvIb e _ => e.wellFormed
  | .shrEvIb e _ => e.wellFormed
  | .sarEvIb e _ => e.wellFormed
  | .rolEbOne e => e.wellFormed
  | .rorEbOne e => e.wellFormed
  | .rclEbOne e => e.wellFormed
  | .rcrEbOne e => e.wellFormed
  | .shlEbOne e => e.wellFormed
  | .shrEbOne e => e.wellFormed
  | .sarEbOne e => e.wellFormed
  | .rolEvOne e => e.wellFormed
  | .rorEvOne e => e.wellFormed
  | .rclEvOne e => e.wellFormed
  | .rcrEvOne e => e.wellFormed
  | .shlEvOne e => e.wellFormed
  | .shrEvOne e => e.wellFormed
  | .sarEvOne e => e.wellFormed
  | .rolEbCl e => e.wellFormed
  | .rorEbCl e => e.wellFormed
  | .rclEbCl e => e.wellFormed
  | .rcrEbCl e => e.wellFormed
  | .shlEbCl e => e.wellFormed
  | .shrEbCl e => e.wellFormed
  | .sarEbCl e => e.wellFormed
  | .rolEvCl e => e.wellFormed
  | .rorEvCl e => e.wellFormed
  | .rclEvCl e => e.wellFormed
  | .rcrEvCl e => e.wellFormed
  | .shlEvCl e => e.wellFormed
  | .shrEvCl e => e.wellFormed
  | .sarEvCl e => e.wellFormed
  | .retIw _ => true
  | .ret => true
  | .movEbIb e _ => e.wellFormed
  | .movEvIv e iv => e.wellFormed && iv.wellFormed opsize
  | .retfIw _ => true
  | .retf => true
  | .int3 => true
  | .intIb _ => true
  | .into => true
  | .iret => true
  | .xlat => true
  | .loopne _ => true
  | .loope _ => true
  | .loop _ => true
  | .jcxz _ => true
  | .inAlIb _ => true
  | .inEaxIb _ => true
  | .outIbAl _ => true
  | .outIbEax _ => true
  | .callJv _ => true
  | .jmpJv _ => true
  | .jmpAp _ _ => true
  | .jmpJb _ => true
  | .inAlDx => true
  | .inEaxDx => true
  | .outDxAl => true
  | .outDxEax => true
  | .hlt => true
  | .cmc => true
  | .testEbIb e _ => e.wellFormed
  | .testEvIv e iv => e.wellFormed && iv.wellFormed opsize
  | .notEb e => e.wellFormed
  | .notEv e => e.wellFormed
  | .negEb e => e.wellFormed
  | .negEv e => e.wellFormed
  | .mulEb e => e.wellFormed
  | .mulEv e => e.wellFormed
  | .imulEb e => e.wellFormed
  | .imulEv e => e.wellFormed
  | .divEb e => e.wellFormed
  | .divEv e => e.wellFormed
  | .idivEb e => e.wellFormed
  | .idivEv e => e.wellFormed
  | .clc => true
  | .stc => true
  | .cli => true
  | .sti => true
  | .incEb e => e.wellFormed
  | .decEb e => e.wellFormed
  | .incEv e => e.wellFormed
  | .decEv e => e.wellFormed
  | .callEv e => e.wellFormed
  | .callMp m => m.wellFormed
  | .jmpEv e => e.wellFormed
  | .jmpMp m => m.wellFormed
  | .pushEv e => e.wellFormed

/-- The instruction has an encoding when the operand-size prefix is `opsize`: its operands have one, and an
instruction of class `fault` stands without the prefix (R107). -/
def Instr.wellFormed (opsize : Bool) (i : Instr) : Bool :=
  i.operandsWellFormed opsize && !(opsize && i.opsizeClass == .faults)

end Sys2Proof
end

