-- ==== Sys2Proof/Decode.lean ====
section
/-! DEFINITION. The decoder, total on any bytes (R100 to R123, R131), the encoder written from the same tables,
and the reading of a row's bits as `spec/opcode_table.json` numbers them (R136). -/

namespace Sys2Proof

/-! ### Bytes and their fields -/

/-- The 16-bit value of two bytes, the first the low one (R68, R102). -/
def half (lo hi : Byte) : Half := hi ++ lo

/-- The 32-bit value of four bytes, the first the lowest (R68, R102). -/
def word (b0 b1 b2 b3 : Byte) : Word := b3 ++ b2 ++ b1 ++ b0

/-- The bytes of a 16-bit value, low byte first (R68). -/
def halfBytes (v : Half) : List Byte := [v.extractLsb' 0 8, v.extractLsb' 8 8]

/-- The bytes of a 32-bit value, lowest byte first (R68). -/
def wordBytes (v : Word) : List Byte :=
  [v.extractLsb' 0 8, v.extractLsb' 8 8, v.extractLsb' 16 8, v.extractLsb' 24 8]

/-- The three-bit code of a register number (R119). -/
def RegNum.code : RegNum → BitVec 3
  | .r0 => 0
  | .r1 => 1
  | .r2 => 2
  | .r3 => 3
  | .r4 => 4
  | .r5 => 5
  | .r6 => 6
  | .r7 => 7

/-- The register number of a three-bit code (R119). -/
def RegNum.ofCode (c : BitVec 3) : RegNum :=
  match c.toNat with
  | 0 => .r0
  | 1 => .r1
  | 2 => .r2
  | 3 => .r3
  | 4 => .r4
  | 5 => .r5
  | 6 => .r6
  | _ => .r7

/-- The `rm` code of a base expression (R110). -/
def Base.code : Base → BitVec 3
  | .bxSi => 0
  | .bxDi => 1
  | .bpSi => 2
  | .bpDi => 3
  | .si => 4
  | .di => 5
  | .bp => 6
  | .bx => 7

/-- The base expression of an `rm` code (R110). -/
def Base.ofCode (c : BitVec 3) : Base :=
  match c.toNat with
  | 0 => .bxSi
  | 1 => .bxDi
  | 2 => .bpSi
  | 3 => .bpDi
  | 4 => .si
  | 5 => .di
  | 6 => .bp
  | _ => .bx

/-! ### The encoder -/

/-- The ModRM byte from its fields `mod`, `reg`, `rm` (R109). -/
def modrmByte (md : BitVec 2) (reg rm : BitVec 3) : Byte := md ++ reg ++ rm

/-- The ModRM byte and displacement of a memory operand (R109, R110). -/
def MemOperand.encode (reg : RegNum) : MemOperand → List Byte
  | .direct d => modrmByte 0 reg.code 6 :: halfBytes d
  | .base b => [modrmByte 0 reg.code b.code]
  | .disp8 b d => [modrmByte 1 reg.code b.code, d]
  | .disp16 b d => modrmByte 2 reg.code b.code :: halfBytes d

/-- The ModRM byte and displacement of an E operand (R109, R110). -/
def EOperand.encode (reg : RegNum) : EOperand → List Byte
  | .reg r => [modrmByte 3 reg.code r.code]
  | .mem m => m.encode reg

/-- The bytes of an Iv immediate (R114). -/
def ImmV.encode : ImmV → List Byte
  | .imm16 v => halfBytes v
  | .imm32 v => wordBytes v

/-- The `reg` code of a segment register (R25, R119). -/
def SReg.regNum : SReg → RegNum
  | .es => .r0
  | .cs => .r1
  | .ss => .r2
  | .ds => .r3

/-- An opcode byte whose low three bits name a register (format `OPR*` of R118). -/
def opcodeWithReg (high : BitVec 5) (r : RegNum) : Byte := high ++ r.code

/-- The bytes of an instruction, prefixes not included (R118, R121, R122). -/
def Instr.encode : Instr → List Byte
  | .addEbGb e g => 0x00#8 :: e.encode g
  | .addEvGv e g => 0x01#8 :: e.encode g
  | .addGbEb g e => 0x02#8 :: e.encode g
  | .addGvEv g e => 0x03#8 :: e.encode g
  | .addAlIb ib => [0x04#8, ib]
  | .addEaxIv iv => 0x05#8 :: iv.encode
  | .addEbIb e ib => 0x80#8 :: (e.encode .r0 ++ [ib])
  | .addEvIv e iv => 0x81#8 :: (e.encode .r0 ++ iv.encode)
  | .addEvIbs e ib => 0x83#8 :: (e.encode .r0 ++ [ib])
  | .orEbGb e g => 0x08#8 :: e.encode g
  | .orEvGv e g => 0x09#8 :: e.encode g
  | .orGbEb g e => 0x0A#8 :: e.encode g
  | .orGvEv g e => 0x0B#8 :: e.encode g
  | .orAlIb ib => [0x0C#8, ib]
  | .orEaxIv iv => 0x0D#8 :: iv.encode
  | .orEbIb e ib => 0x80#8 :: (e.encode .r1 ++ [ib])
  | .orEvIv e iv => 0x81#8 :: (e.encode .r1 ++ iv.encode)
  | .orEvIbs e ib => 0x83#8 :: (e.encode .r1 ++ [ib])
  | .adcEbGb e g => 0x10#8 :: e.encode g
  | .adcEvGv e g => 0x11#8 :: e.encode g
  | .adcGbEb g e => 0x12#8 :: e.encode g
  | .adcGvEv g e => 0x13#8 :: e.encode g
  | .adcAlIb ib => [0x14#8, ib]
  | .adcEaxIv iv => 0x15#8 :: iv.encode
  | .adcEbIb e ib => 0x80#8 :: (e.encode .r2 ++ [ib])
  | .adcEvIv e iv => 0x81#8 :: (e.encode .r2 ++ iv.encode)
  | .adcEvIbs e ib => 0x83#8 :: (e.encode .r2 ++ [ib])
  | .sbbEbGb e g => 0x18#8 :: e.encode g
  | .sbbEvGv e g => 0x19#8 :: e.encode g
  | .sbbGbEb g e => 0x1A#8 :: e.encode g
  | .sbbGvEv g e => 0x1B#8 :: e.encode g
  | .sbbAlIb ib => [0x1C#8, ib]
  | .sbbEaxIv iv => 0x1D#8 :: iv.encode
  | .sbbEbIb e ib => 0x80#8 :: (e.encode .r3 ++ [ib])
  | .sbbEvIv e iv => 0x81#8 :: (e.encode .r3 ++ iv.encode)
  | .sbbEvIbs e ib => 0x83#8 :: (e.encode .r3 ++ [ib])
  | .andEbGb e g => 0x20#8 :: e.encode g
  | .andEvGv e g => 0x21#8 :: e.encode g
  | .andGbEb g e => 0x22#8 :: e.encode g
  | .andGvEv g e => 0x23#8 :: e.encode g
  | .andAlIb ib => [0x24#8, ib]
  | .andEaxIv iv => 0x25#8 :: iv.encode
  | .andEbIb e ib => 0x80#8 :: (e.encode .r4 ++ [ib])
  | .andEvIv e iv => 0x81#8 :: (e.encode .r4 ++ iv.encode)
  | .andEvIbs e ib => 0x83#8 :: (e.encode .r4 ++ [ib])
  | .subEbGb e g => 0x28#8 :: e.encode g
  | .subEvGv e g => 0x29#8 :: e.encode g
  | .subGbEb g e => 0x2A#8 :: e.encode g
  | .subGvEv g e => 0x2B#8 :: e.encode g
  | .subAlIb ib => [0x2C#8, ib]
  | .subEaxIv iv => 0x2D#8 :: iv.encode
  | .subEbIb e ib => 0x80#8 :: (e.encode .r5 ++ [ib])
  | .subEvIv e iv => 0x81#8 :: (e.encode .r5 ++ iv.encode)
  | .subEvIbs e ib => 0x83#8 :: (e.encode .r5 ++ [ib])
  | .xorEbGb e g => 0x30#8 :: e.encode g
  | .xorEvGv e g => 0x31#8 :: e.encode g
  | .xorGbEb g e => 0x32#8 :: e.encode g
  | .xorGvEv g e => 0x33#8 :: e.encode g
  | .xorAlIb ib => [0x34#8, ib]
  | .xorEaxIv iv => 0x35#8 :: iv.encode
  | .xorEbIb e ib => 0x80#8 :: (e.encode .r6 ++ [ib])
  | .xorEvIv e iv => 0x81#8 :: (e.encode .r6 ++ iv.encode)
  | .xorEvIbs e ib => 0x83#8 :: (e.encode .r6 ++ [ib])
  | .cmpEbGb e g => 0x38#8 :: e.encode g
  | .cmpEvGv e g => 0x39#8 :: e.encode g
  | .cmpGbEb g e => 0x3A#8 :: e.encode g
  | .cmpGvEv g e => 0x3B#8 :: e.encode g
  | .cmpAlIb ib => [0x3C#8, ib]
  | .cmpEaxIv iv => 0x3D#8 :: iv.encode
  | .cmpEbIb e ib => 0x80#8 :: (e.encode .r7 ++ [ib])
  | .cmpEvIv e iv => 0x81#8 :: (e.encode .r7 ++ iv.encode)
  | .cmpEvIbs e ib => 0x83#8 :: (e.encode .r7 ++ [ib])
  | .pushEs => [0x06#8]
  | .pushCs => [0x0E#8]
  | .pushSs => [0x16#8]
  | .pushDs => [0x1E#8]
  | .popEs => [0x07#8]
  | .popSs => [0x17#8]
  | .popDs => [0x1F#8]
  | .prefixEs => [0x26#8]
  | .prefixCs => [0x2E#8]
  | .prefixSs => [0x36#8]
  | .prefixDs => [0x3E#8]
  | .prefixOpsize => [0x66#8]
  | .incR r => [opcodeWithReg 0x08#5 r]
  | .decR r => [opcodeWithReg 0x09#5 r]
  | .pushR r => [opcodeWithReg 0x0A#5 r]
  | .popR r => [opcodeWithReg 0x0B#5 r]
  | .pushIv iv => 0x68#8 :: iv.encode
  | .pushIbs ib => [0x6A#8, ib]
  | .jo rel => [0x70#8, rel]
  | .jno rel => [0x71#8, rel]
  | .jb rel => [0x72#8, rel]
  | .jae rel => [0x73#8, rel]
  | .je rel => [0x74#8, rel]
  | .jne rel => [0x75#8, rel]
  | .jbe rel => [0x76#8, rel]
  | .ja rel => [0x77#8, rel]
  | .js rel => [0x78#8, rel]
  | .jns rel => [0x79#8, rel]
  | .jp rel => [0x7A#8, rel]
  | .jnp rel => [0x7B#8, rel]
  | .jl rel => [0x7C#8, rel]
  | .jge rel => [0x7D#8, rel]
  | .jle rel => [0x7E#8, rel]
  | .jg rel => [0x7F#8, rel]
  | .testEbGb e g => 0x84#8 :: e.encode g
  | .testEvGv e g => 0x85#8 :: e.encode g
  | .xchgEbGb e g => 0x86#8 :: e.encode g
  | .xchgEvGv e g => 0x87#8 :: e.encode g
  | .movEbGb e g => 0x88#8 :: e.encode g
  | .movEvGv e g => 0x89#8 :: e.encode g
  | .movGbEb g e => 0x8A#8 :: e.encode g
  | .movGvEv g e => 0x8B#8 :: e.encode g
  | .movEwSw e sr => 0x8C#8 :: e.encode sr.regNum
  | .movEsEw e => 0x8E#8 :: e.encode .r0
  | .movSsEw e => 0x8E#8 :: e.encode .r2
  | .movDsEw e => 0x8E#8 :: e.encode .r3
  | .leaGvM g m => 0x8D#8 :: m.encode g
  | .popEv e => 0x8F#8 :: e.encode .r0
  | .nop => [0x90#8]
  | .xchgEaxEcx => [0x91#8]
  | .xchgEaxEdx => [0x92#8]
  | .xchgEaxEbx => [0x93#8]
  | .xchgEaxEsp => [0x94#8]
  | .xchgEaxEbp => [0x95#8]
  | .xchgEaxEsi => [0x96#8]
  | .xchgEaxEdi => [0x97#8]
  | .cbw => [0x98#8]
  | .cwd => [0x99#8]
  | .callAp off sel => 0x9A#8 :: (halfBytes off ++ halfBytes sel)
  | .pushf => [0x9C#8]
  | .popf => [0x9D#8]
  | .sahf => [0x9E#8]
  | .lahf => [0x9F#8]
  | .movAlOb off => 0xA0#8 :: halfBytes off
  | .movEaxOv off => 0xA1#8 :: halfBytes off
  | .movObAl off => 0xA2#8 :: halfBytes off
  | .movOvEax off => 0xA3#8 :: halfBytes off
  | .testAlIb ib => [0xA8#8, ib]
  | .testEaxIv iv => 0xA9#8 :: iv.encode
  | .movR8Ib r ib => [opcodeWithReg 0x16#5 r, ib]
  | .movRIv r iv => opcodeWithReg 0x17#5 r :: iv.encode
  | .rolEbIb e ib => 0xC0#8 :: (e.encode .r0 ++ [ib])
  | .rorEbIb e ib => 0xC0#8 :: (e.encode .r1 ++ [ib])
  | .rclEbIb e ib => 0xC0#8 :: (e.encode .r2 ++ [ib])
  | .rcrEbIb e ib => 0xC0#8 :: (e.encode .r3 ++ [ib])
  | .shlEbIb e ib => 0xC0#8 :: (e.encode .r4 ++ [ib])
  | .shrEbIb e ib => 0xC0#8 :: (e.encode .r5 ++ [ib])
  | .sarEbIb e ib => 0xC0#8 :: (e.encode .r7 ++ [ib])
  | .rolEvIb e ib => 0xC1#8 :: (e.encode .r0 ++ [ib])
  | .rorEvIb e ib => 0xC1#8 :: (e.encode .r1 ++ [ib])
  | .rclEvIb e ib => 0xC1#8 :: (e.encode .r2 ++ [ib])
  | .rcrEvIb e ib => 0xC1#8 :: (e.encode .r3 ++ [ib])
  | .shlEvIb e ib => 0xC1#8 :: (e.encode .r4 ++ [ib])
  | .shrEvIb e ib => 0xC1#8 :: (e.encode .r5 ++ [ib])
  | .sarEvIb e ib => 0xC1#8 :: (e.encode .r7 ++ [ib])
  | .rolEbOne e => 0xD0#8 :: e.encode .r0
  | .rorEbOne e => 0xD0#8 :: e.encode .r1
  | .rclEbOne e => 0xD0#8 :: e.encode .r2
  | .rcrEbOne e => 0xD0#8 :: e.encode .r3
  | .shlEbOne e => 0xD0#8 :: e.encode .r4
  | .shrEbOne e => 0xD0#8 :: e.encode .r5
  | .sarEbOne e => 0xD0#8 :: e.encode .r7
  | .rolEvOne e => 0xD1#8 :: e.encode .r0
  | .rorEvOne e => 0xD1#8 :: e.encode .r1
  | .rclEvOne e => 0xD1#8 :: e.encode .r2
  | .rcrEvOne e => 0xD1#8 :: e.encode .r3
  | .shlEvOne e => 0xD1#8 :: e.encode .r4
  | .shrEvOne e => 0xD1#8 :: e.encode .r5
  | .sarEvOne e => 0xD1#8 :: e.encode .r7
  | .rolEbCl e => 0xD2#8 :: e.encode .r0
  | .rorEbCl e => 0xD2#8 :: e.encode .r1
  | .rclEbCl e => 0xD2#8 :: e.encode .r2
  | .rcrEbCl e => 0xD2#8 :: e.encode .r3
  | .shlEbCl e => 0xD2#8 :: e.encode .r4
  | .shrEbCl e => 0xD2#8 :: e.encode .r5
  | .sarEbCl e => 0xD2#8 :: e.encode .r7
  | .rolEvCl e => 0xD3#8 :: e.encode .r0
  | .rorEvCl e => 0xD3#8 :: e.encode .r1
  | .rclEvCl e => 0xD3#8 :: e.encode .r2
  | .rcrEvCl e => 0xD3#8 :: e.encode .r3
  | .shlEvCl e => 0xD3#8 :: e.encode .r4
  | .shrEvCl e => 0xD3#8 :: e.encode .r5
  | .sarEvCl e => 0xD3#8 :: e.encode .r7
  | .retIw iw => 0xC2#8 :: halfBytes iw
  | .ret => [0xC3#8]
  | .movEbIb e ib => 0xC6#8 :: (e.encode .r0 ++ [ib])
  | .movEvIv e iv => 0xC7#8 :: (e.encode .r0 ++ iv.encode)
  | .retfIw iw => 0xCA#8 :: halfBytes iw
  | .retf => [0xCB#8]
  | .int3 => [0xCC#8]
  | .intIb ib => [0xCD#8, ib]
  | .into => [0xCE#8]
  | .iret => [0xCF#8]
  | .xlat => [0xD7#8]
  | .loopne rel => [0xE0#8, rel]
  | .loope rel => [0xE1#8, rel]
  | .loop rel => [0xE2#8, rel]
  | .jcxz rel => [0xE3#8, rel]
  | .inAlIb ib => [0xE4#8, ib]
  | .inEaxIb ib => [0xE5#8, ib]
  | .outIbAl ib => [0xE6#8, ib]
  | .outIbEax ib => [0xE7#8, ib]
  | .callJv rel => 0xE8#8 :: halfBytes rel
  | .jmpJv rel => 0xE9#8 :: halfBytes rel
  | .jmpAp off sel => 0xEA#8 :: (halfBytes off ++ halfBytes sel)
  | .jmpJb rel => [0xEB#8, rel]
  | .inAlDx => [0xEC#8]
  | .inEaxDx => [0xED#8]
  | .outDxAl => [0xEE#8]
  | .outDxEax => [0xEF#8]
  | .hlt => [0xF4#8]
  | .cmc => [0xF5#8]
  | .testEbIb e ib => 0xF6#8 :: (e.encode .r0 ++ [ib])
  | .testEvIv e iv => 0xF7#8 :: (e.encode .r0 ++ iv.encode)
  | .notEb e => 0xF6#8 :: e.encode .r2
  | .notEv e => 0xF7#8 :: e.encode .r2
  | .negEb e => 0xF6#8 :: e.encode .r3
  | .negEv e => 0xF7#8 :: e.encode .r3
  | .mulEb e => 0xF6#8 :: e.encode .r4
  | .mulEv e => 0xF7#8 :: e.encode .r4
  | .imulEb e => 0xF6#8 :: e.encode .r5
  | .imulEv e => 0xF7#8 :: e.encode .r5
  | .divEb e => 0xF6#8 :: e.encode .r6
  | .divEv e => 0xF7#8 :: e.encode .r6
  | .idivEb e => 0xF6#8 :: e.encode .r7
  | .idivEv e => 0xF7#8 :: e.encode .r7
  | .clc => [0xF8#8]
  | .stc => [0xF9#8]
  | .cli => [0xFA#8]
  | .sti => [0xFB#8]
  | .incEb e => 0xFE#8 :: e.encode .r0
  | .decEb e => 0xFE#8 :: e.encode .r1
  | .incEv e => 0xFF#8 :: e.encode .r0
  | .decEv e => 0xFF#8 :: e.encode .r1
  | .callEv e => 0xFF#8 :: e.encode .r2
  | .callMp m => 0xFF#8 :: m.encode .r3
  | .jmpEv e => 0xFF#8 :: e.encode .r4
  | .jmpMp m => 0xFF#8 :: m.encode .r5
  | .pushEv e => 0xFF#8 :: e.encode .r6

/-! ### The opcode map -/

/-- Why an encoding has no handler (R131, R101). -/
inductive DecodeInfo where
  /-- the instruction is longer than `MAX_INSN_LEN` -/
  | tooLong
  /-- no row for the opcode byte -/
  | opcode (b : Byte)
  /-- no member of the group -/
  | group
  /-- a register form where memory is required, a segment register number with no register, a load of CS by a
  move, or the operand-size prefix on a row of class `fault` -/
  | form
deriving DecidableEq, Repr

/-- What is left to fetch once the opcode, the ModRM byte and the displacement are known, and what then results. -/
inductive Tail where
  /-- no handler, with nothing more to fetch -/
  | bad (info : DecodeInfo)
  /-- no member of a group whose format has an 8-bit immediate. log 12 -/
  | badImm8 (info : DecodeInfo)
  /-- no member of a group whose format has an Iv immediate. log 12 -/
  | badImmV (info : DecodeInfo)
  | done (i : Instr)
  | imm8 (f : Byte → Instr)
  | imm16 (f : Half → Instr)
  | immV (f : ImmV → Instr)
  /-- offset, then selector (R117) -/
  | far (f : Half → Half → Instr)

/-- A value of the opcode byte: no row, or a row without or with a ModRM byte (R122). -/
inductive OpcodeRow where
  | none
  | plain (t : Tail)
  | modrm (f : RegNum → EOperand → Tail)

/-- The forms that need a memory operand: `mod` = 3 is a DecodeFault (R108, R131). -/
def memForm (f : MemOperand → Instr) : EOperand → Tail
  | .reg _ => .bad .form
  | .mem m => .done (f m)

/-- Group 1, opcode 0x80 Eb,Ib (R121). -/
def group1EbIb : RegNum → EOperand → Tail
  | .r0, e => .imm8 (.addEbIb e)
  | .r1, e => .imm8 (.orEbIb e)
  | .r2, e => .imm8 (.adcEbIb e)
  | .r3, e => .imm8 (.sbbEbIb e)
  | .r4, e => .imm8 (.andEbIb e)
  | .r5, e => .imm8 (.subEbIb e)
  | .r6, e => .imm8 (.xorEbIb e)
  | .r7, e => .imm8 (.cmpEbIb e)

/-- Group 1, opcode 0x81 Ev,Iv (R121). -/
def group1EvIv : RegNum → EOperand → Tail
  | .r0, e => .immV (.addEvIv e)
  | .r1, e => .immV (.orEvIv e)
  | .r2, e => .immV (.adcEvIv e)
  | .r3, e => .immV (.sbbEvIv e)
  | .r4, e => .immV (.andEvIv e)
  | .r5, e => .immV (.subEvIv e)
  | .r6, e => .immV (.xorEvIv e)
  | .r7, e => .immV (.cmpEvIv e)

/-- Group 1, opcode 0x83 Ev,Ibs (R121). -/
def group1EvIbs : RegNum → EOperand → Tail
  | .r0, e => .imm8 (.addEvIbs e)
  | .r1, e => .imm8 (.orEvIbs e)
  | .r2, e => .imm8 (.adcEvIbs e)
  | .r3, e => .imm8 (.sbbEvIbs e)
  | .r4, e => .imm8 (.andEvIbs e)
  | .r5, e => .imm8 (.subEvIbs e)
  | .r6, e => .imm8 (.xorEvIbs e)
  | .r7, e => .imm8 (.cmpEvIbs e)

/-- Opcode 0x8F Ev (R121). -/
def groupPop : RegNum → EOperand → Tail
  | .r0, e => .done (.popEv e)
  | .r1, _ => .bad .group
  | .r2, _ => .bad .group
  | .r3, _ => .bad .group
  | .r4, _ => .bad .group
  | .r5, _ => .bad .group
  | .r6, _ => .bad .group
  | .r7, _ => .bad .group

/-- Group 2, opcode 0xC0 (R121, R260). -/
def group2EbIb : RegNum → EOperand → Tail
  | .r0, e => .imm8 (.rolEbIb e)
  | .r1, e => .imm8 (.rorEbIb e)
  | .r2, e => .imm8 (.rclEbIb e)
  | .r3, e => .imm8 (.rcrEbIb e)
  | .r4, e => .imm8 (.shlEbIb e)
  | .r5, e => .imm8 (.shrEbIb e)
  | .r6, _ => .badImm8 .group
  | .r7, e => .imm8 (.sarEbIb e)

/-- Group 2, opcode 0xC1 (R121, R260). -/
def group2EvIb : RegNum → EOperand → Tail
  | .r0, e => .imm8 (.rolEvIb e)
  | .r1, e => .imm8 (.rorEvIb e)
  | .r2, e => .imm8 (.rclEvIb e)
  | .r3, e => .imm8 (.rcrEvIb e)
  | .r4, e => .imm8 (.shlEvIb e)
  | .r5, e => .imm8 (.shrEvIb e)
  | .r6, _ => .badImm8 .group
  | .r7, e => .imm8 (.sarEvIb e)

/-- Group 2, opcode 0xD0 (R121, R260). -/
def group2EbOne : RegNum → EOperand → Tail
  | .r0, e => .done (.rolEbOne e)
  | .r1, e => .done (.rorEbOne e)
  | .r2, e => .done (.rclEbOne e)
  | .r3, e => .done (.rcrEbOne e)
  | .r4, e => .done (.shlEbOne e)
  | .r5, e => .done (.shrEbOne e)
  | .r6, _ => .bad .group
  | .r7, e => .done (.sarEbOne e)

/-- Group 2, opcode 0xD1 (R121, R260). -/
def group2EvOne : RegNum → EOperand → Tail
  | .r0, e => .done (.rolEvOne e)
  | .r1, e => .done (.rorEvOne e)
  | .r2, e => .done (.rclEvOne e)
  | .r3, e => .done (.rcrEvOne e)
  | .r4, e => .done (.shlEvOne e)
  | .r5, e => .done (.shrEvOne e)
  | .r6, _ => .bad .group
  | .r7, e => .done (.sarEvOne e)

/-- Group 2, opcode 0xD2 (R121, R260). -/
def group2EbCl : RegNum → EOperand → Tail
  | .r0, e => .done (.rolEbCl e)
  | .r1, e => .done (.rorEbCl e)
  | .r2, e => .done (.rclEbCl e)
  | .r3, e => .done (.rcrEbCl e)
  | .r4, e => .done (.shlEbCl e)
  | .r5, e => .done (.shrEbCl e)
  | .r6, _ => .bad .group
  | .r7, e => .done (.sarEbCl e)

/-- Group 2, opcode 0xD3 (R121, R260). -/
def group2EvCl : RegNum → EOperand → Tail
  | .r0, e => .done (.rolEvCl e)
  | .r1, e => .done (.rorEvCl e)
  | .r2, e => .done (.rclEvCl e)
  | .r3, e => .done (.rcrEvCl e)
  | .r4, e => .done (.shlEvCl e)
  | .r5, e => .done (.shrEvCl e)
  | .r6, _ => .bad .group
  | .r7, e => .done (.sarEvCl e)

/-- Opcode 0xC6 Eb,Ib (R121). -/
def groupMovEbIb : RegNum → EOperand → Tail
  | .r0, e => .imm8 (.movEbIb e)
  | .r1, _ => .badImm8 .group
  | .r2, _ => .badImm8 .group
  | .r3, _ => .badImm8 .group
  | .r4, _ => .badImm8 .group
  | .r5, _ => .badImm8 .group
  | .r6, _ => .badImm8 .group
  | .r7, _ => .badImm8 .group

/-- Opcode 0xC7 Ev,Iv (R121). -/
def groupMovEvIv : RegNum → EOperand → Tail
  | .r0, e => .immV (.movEvIv e)
  | .r1, _ => .badImmV .group
  | .r2, _ => .badImmV .group
  | .r3, _ => .badImmV .group
  | .r4, _ => .badImmV .group
  | .r5, _ => .badImmV .group
  | .r6, _ => .badImmV .group
  | .r7, _ => .badImmV .group

/-- Group 3, opcode 0xF6 Eb: only /0 has an immediate (R121, R123). -/
def group3Eb : RegNum → EOperand → Tail
  | .r0, e => .imm8 (.testEbIb e)
  | .r1, _ => .bad .group
  | .r2, e => .done (.notEb e)
  | .r3, e => .done (.negEb e)
  | .r4, e => .done (.mulEb e)
  | .r5, e => .done (.imulEb e)
  | .r6, e => .done (.divEb e)
  | .r7, e => .done (.idivEb e)

/-- Group 3, opcode 0xF7 Ev: only /0 has an immediate (R121, R123). -/
def group3Ev : RegNum → EOperand → Tail
  | .r0, e => .immV (.testEvIv e)
  | .r1, _ => .bad .group
  | .r2, e => .done (.notEv e)
  | .r3, e => .done (.negEv e)
  | .r4, e => .done (.mulEv e)
  | .r5, e => .done (.imulEv e)
  | .r6, e => .done (.divEv e)
  | .r7, e => .done (.idivEv e)

/-- Group 4, opcode 0xFE Eb (R121). -/
def group4 : RegNum → EOperand → Tail
  | .r0, e => .done (.incEb e)
  | .r1, e => .done (.decEb e)
  | .r2, _ => .bad .group
  | .r3, _ => .bad .group
  | .r4, _ => .bad .group
  | .r5, _ => .bad .group
  | .r6, _ => .bad .group
  | .r7, _ => .bad .group

/-- Group 5, opcode 0xFF (R121). -/
def group5 : RegNum → EOperand → Tail
  | .r0, e => .done (.incEv e)
  | .r1, e => .done (.decEv e)
  | .r2, e => .done (.callEv e)
  | .r3, e => memForm .callMp e
  | .r4, e => .done (.jmpEv e)
  | .r5, e => memForm .jmpMp e
  | .r6, e => .done (.pushEv e)
  | .r7, _ => .bad .group

/-- MOV Ew,Sw, opcode 0x8C: `reg` names the segment register; 4 to 7 name none (R131, R156). -/
def movFromSeg : RegNum → EOperand → Tail
  | .r0, e => .done (.movEwSw e .es)
  | .r1, e => .done (.movEwSw e .cs)
  | .r2, e => .done (.movEwSw e .ss)
  | .r3, e => .done (.movEwSw e .ds)
  | .r4, _ => .bad .form
  | .r5, _ => .bad .form
  | .r6, _ => .bad .form
  | .r7, _ => .bad .form

/-- MOV Sw,Ew, opcode 0x8E: ES, SS or DS; CS and 4 to 7 are a DecodeFault (R131, R157). -/
def movToSeg : RegNum → EOperand → Tail
  | .r0, e => .done (.movEsEw e)
  | .r1, _ => .bad .form
  | .r2, e => .done (.movSsEw e)
  | .r3, e => .done (.movDsEw e)
  | .r4, _ => .bad .form
  | .r5, _ => .bad .form
  | .r6, _ => .bad .form
  | .r7, _ => .bad .form

/-- Opcodes 0x00 to 0x0F, by the low four bits (R122). -/
def opcodeRow0 (lo : Nat) : OpcodeRow :=
  match lo with
  | 0x0 => .modrm fun g e => .done (.addEbGb e g)
  | 0x1 => .modrm fun g e => .done (.addEvGv e g)
  | 0x2 => .modrm fun g e => .done (.addGbEb g e)
  | 0x3 => .modrm fun g e => .done (.addGvEv g e)
  | 0x4 => .plain (.imm8 .addAlIb)
  | 0x5 => .plain (.immV .addEaxIv)
  | 0x6 => .plain (.done .pushEs)
  | 0x7 => .plain (.done .popEs)
  | 0x8 => .modrm fun g e => .done (.orEbGb e g)
  | 0x9 => .modrm fun g e => .done (.orEvGv e g)
  | 0xA => .modrm fun g e => .done (.orGbEb g e)
  | 0xB => .modrm fun g e => .done (.orGvEv g e)
  | 0xC => .plain (.imm8 .orAlIb)
  | 0xD => .plain (.immV .orEaxIv)
  | 0xE => .plain (.done .pushCs)
  | _ => .none

/-- Opcodes 0x10 to 0x1F, by the low four bits (R122). -/
def opcodeRow1 (lo : Nat) : OpcodeRow :=
  match lo with
  | 0x0 => .modrm fun g e => .done (.adcEbGb e g)
  | 0x1 => .modrm fun g e => .done (.adcEvGv e g)
  | 0x2 => .modrm fun g e => .done (.adcGbEb g e)
  | 0x3 => .modrm fun g e => .done (.adcGvEv g e)
  | 0x4 => .plain (.imm8 .adcAlIb)
  | 0x5 => .plain (.immV .adcEaxIv)
  | 0x6 => .plain (.done .pushSs)
  | 0x7 => .plain (.done .popSs)
  | 0x8 => .modrm fun g e => .done (.sbbEbGb e g)
  | 0x9 => .modrm fun g e => .done (.sbbEvGv e g)
  | 0xA => .modrm fun g e => .done (.sbbGbEb g e)
  | 0xB => .modrm fun g e => .done (.sbbGvEv g e)
  | 0xC => .plain (.imm8 .sbbAlIb)
  | 0xD => .plain (.immV .sbbEaxIv)
  | 0xE => .plain (.done .pushDs)
  | _ => .plain (.done .popDs)

/-- Opcodes 0x20 to 0x2F, by the low four bits (R122). -/
def opcodeRow2 (lo : Nat) : OpcodeRow :=
  match lo with
  | 0x0 => .modrm fun g e => .done (.andEbGb e g)
  | 0x1 => .modrm fun g e => .done (.andEvGv e g)
  | 0x2 => .modrm fun g e => .done (.andGbEb g e)
  | 0x3 => .modrm fun g e => .done (.andGvEv g e)
  | 0x4 => .plain (.imm8 .andAlIb)
  | 0x5 => .plain (.immV .andEaxIv)
  | 0x6 => .plain (.done .prefixEs)
  | 0x7 => .none
  | 0x8 => .modrm fun g e => .done (.subEbGb e g)
  | 0x9 => .modrm fun g e => .done (.subEvGv e g)
  | 0xA => .modrm fun g e => .done (.subGbEb g e)
  | 0xB => .modrm fun g e => .done (.subGvEv g e)
  | 0xC => .plain (.imm8 .subAlIb)
  | 0xD => .plain (.immV .subEaxIv)
  | 0xE => .plain (.done .prefixCs)
  | _ => .none

/-- Opcodes 0x30 to 0x3F, by the low four bits (R122). -/
def opcodeRow3 (lo : Nat) : OpcodeRow :=
  match lo with
  | 0x0 => .modrm fun g e => .done (.xorEbGb e g)
  | 0x1 => .modrm fun g e => .done (.xorEvGv e g)
  | 0x2 => .modrm fun g e => .done (.xorGbEb g e)
  | 0x3 => .modrm fun g e => .done (.xorGvEv g e)
  | 0x4 => .plain (.imm8 .xorAlIb)
  | 0x5 => .plain (.immV .xorEaxIv)
  | 0x6 => .plain (.done .prefixSs)
  | 0x7 => .none
  | 0x8 => .modrm fun g e => .done (.cmpEbGb e g)
  | 0x9 => .modrm fun g e => .done (.cmpEvGv e g)
  | 0xA => .modrm fun g e => .done (.cmpGbEb g e)
  | 0xB => .modrm fun g e => .done (.cmpGvEv g e)
  | 0xC => .plain (.imm8 .cmpAlIb)
  | 0xD => .plain (.immV .cmpEaxIv)
  | 0xE => .plain (.done .prefixDs)
  | _ => .none

/-- Opcodes 0x40 to 0x4F, by the low four bits (R122). -/
def opcodeRow4 (lo : Nat) : OpcodeRow :=
  match lo with
  | 0x0 => .plain (.done (.incR .r0))
  | 0x1 => .plain (.done (.incR .r1))
  | 0x2 => .plain (.done (.incR .r2))
  | 0x3 => .plain (.done (.incR .r3))
  | 0x4 => .plain (.done (.incR .r4))
  | 0x5 => .plain (.done (.incR .r5))
  | 0x6 => .plain (.done (.incR .r6))
  | 0x7 => .plain (.done (.incR .r7))
  | 0x8 => .plain (.done (.decR .r0))
  | 0x9 => .plain (.done (.decR .r1))
  | 0xA => .plain (.done (.decR .r2))
  | 0xB => .plain (.done (.decR .r3))
  | 0xC => .plain (.done (.decR .r4))
  | 0xD => .plain (.done (.decR .r5))
  | 0xE => .plain (.done (.decR .r6))
  | _ => .plain (.done (.decR .r7))

/-- Opcodes 0x50 to 0x5F, by the low four bits (R122). -/
def opcodeRow5 (lo : Nat) : OpcodeRow :=
  match lo with
  | 0x0 => .plain (.done (.pushR .r0))
  | 0x1 => .plain (.done (.pushR .r1))
  | 0x2 => .plain (.done (.pushR .r2))
  | 0x3 => .plain (.done (.pushR .r3))
  | 0x4 => .plain (.done (.pushR .r4))
  | 0x5 => .plain (.done (.pushR .r5))
  | 0x6 => .plain (.done (.pushR .r6))
  | 0x7 => .plain (.done (.pushR .r7))
  | 0x8 => .plain (.done (.popR .r0))
  | 0x9 => .plain (.done (.popR .r1))
  | 0xA => .plain (.done (.popR .r2))
  | 0xB => .plain (.done (.popR .r3))
  | 0xC => .plain (.done (.popR .r4))
  | 0xD => .plain (.done (.popR .r5))
  | 0xE => .plain (.done (.popR .r6))
  | _ => .plain (.done (.popR .r7))

/-- Opcodes 0x60 to 0x6F, by the low four bits (R122). -/
def opcodeRow6 (lo : Nat) : OpcodeRow :=
  match lo with
  | 0x0 => .none
  | 0x1 => .none
  | 0x2 => .none
  | 0x3 => .none
  | 0x4 => .none
  | 0x5 => .none
  | 0x6 => .plain (.done .prefixOpsize)
  | 0x7 => .none
  | 0x8 => .plain (.immV .pushIv)
  | 0x9 => .none
  | 0xA => .plain (.imm8 .pushIbs)
  | 0xB => .none
  | 0xC => .none
  | 0xD => .none
  | 0xE => .none
  | _ => .none

/-- Opcodes 0x70 to 0x7F, by the low four bits (R122). -/
def opcodeRow7 (lo : Nat) : OpcodeRow :=
  match lo with
  | 0x0 => .plain (.imm8 .jo)
  | 0x1 => .plain (.imm8 .jno)
  | 0x2 => .plain (.imm8 .jb)
  | 0x3 => .plain (.imm8 .jae)
  | 0x4 => .plain (.imm8 .je)
  | 0x5 => .plain (.imm8 .jne)
  | 0x6 => .plain (.imm8 .jbe)
  | 0x7 => .plain (.imm8 .ja)
  | 0x8 => .plain (.imm8 .js)
  | 0x9 => .plain (.imm8 .jns)
  | 0xA => .plain (.imm8 .jp)
  | 0xB => .plain (.imm8 .jnp)
  | 0xC => .plain (.imm8 .jl)
  | 0xD => .plain (.imm8 .jge)
  | 0xE => .plain (.imm8 .jle)
  | _ => .plain (.imm8 .jg)

/-- Opcodes 0x80 to 0x8F, by the low four bits (R122). -/
def opcodeRow8 (lo : Nat) : OpcodeRow :=
  match lo with
  | 0x0 => .modrm group1EbIb
  | 0x1 => .modrm group1EvIv
  | 0x2 => .none
  | 0x3 => .modrm group1EvIbs
  | 0x4 => .modrm fun g e => .done (.testEbGb e g)
  | 0x5 => .modrm fun g e => .done (.testEvGv e g)
  | 0x6 => .modrm fun g e => .done (.xchgEbGb e g)
  | 0x7 => .modrm fun g e => .done (.xchgEvGv e g)
  | 0x8 => .modrm fun g e => .done (.movEbGb e g)
  | 0x9 => .modrm fun g e => .done (.movEvGv e g)
  | 0xA => .modrm fun g e => .done (.movGbEb g e)
  | 0xB => .modrm fun g e => .done (.movGvEv g e)
  | 0xC => .modrm movFromSeg
  | 0xD => .modrm fun g e => memForm (.leaGvM g) e
  | 0xE => .modrm movToSeg
  | _ => .modrm groupPop

/-- Opcodes 0x90 to 0x9F, by the low four bits (R122). -/
def opcodeRow9 (lo : Nat) : OpcodeRow :=
  match lo with
  | 0x0 => .plain (.done .nop)
  | 0x1 => .plain (.done .xchgEaxEcx)
  | 0x2 => .plain (.done .xchgEaxEdx)
  | 0x3 => .plain (.done .xchgEaxEbx)
  | 0x4 => .plain (.done .xchgEaxEsp)
  | 0x5 => .plain (.done .xchgEaxEbp)
  | 0x6 => .plain (.done .xchgEaxEsi)
  | 0x7 => .plain (.done .xchgEaxEdi)
  | 0x8 => .plain (.done .cbw)
  | 0x9 => .plain (.done .cwd)
  | 0xA => .plain (.far .callAp)
  | 0xB => .none
  | 0xC => .plain (.done .pushf)
  | 0xD => .plain (.done .popf)
  | 0xE => .plain (.done .sahf)
  | _ => .plain (.done .lahf)

/-- Opcodes 0xA0 to 0xAF, by the low four bits (R122). -/
def opcodeRowA (lo : Nat) : OpcodeRow :=
  match lo with
  | 0x0 => .plain (.imm16 .movAlOb)
  | 0x1 => .plain (.imm16 .movEaxOv)
  | 0x2 => .plain (.imm16 .movObAl)
  | 0x3 => .plain (.imm16 .movOvEax)
  | 0x4 => .none
  | 0x5 => .none
  | 0x6 => .none
  | 0x7 => .none
  | 0x8 => .plain (.imm8 .testAlIb)
  | 0x9 => .plain (.immV .testEaxIv)
  | 0xA => .none
  | 0xB => .none
  | 0xC => .none
  | 0xD => .none
  | 0xE => .none
  | _ => .none

/-- Opcodes 0xB0 to 0xBF, by the low four bits (R122). -/
def opcodeRowB (lo : Nat) : OpcodeRow :=
  match lo with
  | 0x0 => .plain (.imm8 (.movR8Ib .r0))
  | 0x1 => .plain (.imm8 (.movR8Ib .r1))
  | 0x2 => .plain (.imm8 (.movR8Ib .r2))
  | 0x3 => .plain (.imm8 (.movR8Ib .r3))
  | 0x4 => .plain (.imm8 (.movR8Ib .r4))
  | 0x5 => .plain (.imm8 (.movR8Ib .r5))
  | 0x6 => .plain (.imm8 (.movR8Ib .r6))
  | 0x7 => .plain (.imm8 (.movR8Ib .r7))
  | 0x8 => .plain (.immV (.movRIv .r0))
  | 0x9 => .plain (.immV (.movRIv .r1))
  | 0xA => .plain (.immV (.movRIv .r2))
  | 0xB => .plain (.immV (.movRIv .r3))
  | 0xC => .plain (.immV (.movRIv .r4))
  | 0xD => .plain (.immV (.movRIv .r5))
  | 0xE => .plain (.immV (.movRIv .r6))
  | _ => .plain (.immV (.movRIv .r7))

/-- Opcodes 0xC0 to 0xCF, by the low four bits (R122). -/
def opcodeRowC (lo : Nat) : OpcodeRow :=
  match lo with
  | 0x0 => .modrm group2EbIb
  | 0x1 => .modrm group2EvIb
  | 0x2 => .plain (.imm16 .retIw)
  | 0x3 => .plain (.done .ret)
  | 0x4 => .none
  | 0x5 => .none
  | 0x6 => .modrm groupMovEbIb
  | 0x7 => .modrm groupMovEvIv
  | 0x8 => .none
  | 0x9 => .none
  | 0xA => .plain (.imm16 .retfIw)
  | 0xB => .plain (.done .retf)
  | 0xC => .plain (.done .int3)
  | 0xD => .plain (.imm8 .intIb)
  | 0xE => .plain (.done .into)
  | _ => .plain (.done .iret)

/-- Opcodes 0xD0 to 0xDF, by the low four bits (R122). -/
def opcodeRowD (lo : Nat) : OpcodeRow :=
  match lo with
  | 0x0 => .modrm group2EbOne
  | 0x1 => .modrm group2EvOne
  | 0x2 => .modrm group2EbCl
  | 0x3 => .modrm group2EvCl
  | 0x4 => .none
  | 0x5 => .none
  | 0x6 => .none
  | 0x7 => .plain (.done .xlat)
  | 0x8 => .none
  | 0x9 => .none
  | 0xA => .none
  | 0xB => .none
  | 0xC => .none
  | 0xD => .none
  | 0xE => .none
  | _ => .none

/-- Opcodes 0xE0 to 0xEF, by the low four bits (R122). -/
def opcodeRowE (lo : Nat) : OpcodeRow :=
  match lo with
  | 0x0 => .plain (.imm8 .loopne)
  | 0x1 => .plain (.imm8 .loope)
  | 0x2 => .plain (.imm8 .loop)
  | 0x3 => .plain (.imm8 .jcxz)
  | 0x4 => .plain (.imm8 .inAlIb)
  | 0x5 => .plain (.imm8 .inEaxIb)
  | 0x6 => .plain (.imm8 .outIbAl)
  | 0x7 => .plain (.imm8 .outIbEax)
  | 0x8 => .plain (.imm16 .callJv)
  | 0x9 => .plain (.imm16 .jmpJv)
  | 0xA => .plain (.far .jmpAp)
  | 0xB => .plain (.imm8 .jmpJb)
  | 0xC => .plain (.done .inAlDx)
  | 0xD => .plain (.done .inEaxDx)
  | 0xE => .plain (.done .outDxAl)
  | _ => .plain (.done .outDxEax)

/-- Opcodes 0xF0 to 0xFF, by the low four bits (R122). -/
def opcodeRowF (lo : Nat) : OpcodeRow :=
  match lo with
  | 0x0 => .none
  | 0x1 => .none
  | 0x2 => .none
  | 0x3 => .none
  | 0x4 => .plain (.done .hlt)
  | 0x5 => .plain (.done .cmc)
  | 0x6 => .modrm group3Eb
  | 0x7 => .modrm group3Ev
  | 0x8 => .plain (.done .clc)
  | 0x9 => .plain (.done .stc)
  | 0xA => .plain (.done .cli)
  | 0xB => .plain (.done .sti)
  | 0xC => .none
  | 0xD => .none
  | 0xE => .modrm group4
  | _ => .modrm group5

/-- The map of the 256 opcode byte values (R122). -/
def opcodeRow (b : Byte) : OpcodeRow :=
  let lo := b.toNat % 16
  match b.toNat / 16 with
  | 0x0 => opcodeRow0 lo
  | 0x1 => opcodeRow1 lo
  | 0x2 => opcodeRow2 lo
  | 0x3 => opcodeRow3 lo
  | 0x4 => opcodeRow4 lo
  | 0x5 => opcodeRow5 lo
  | 0x6 => opcodeRow6 lo
  | 0x7 => opcodeRow7 lo
  | 0x8 => opcodeRow8 lo
  | 0x9 => opcodeRow9 lo
  | 0xA => opcodeRowA lo
  | 0xB => opcodeRowB lo
  | 0xC => opcodeRowC lo
  | 0xD => opcodeRowD lo
  | 0xE => opcodeRowE lo
  | _ => opcodeRowF lo

/-! ### The decoder -/

/-- The answer of the decoder to a list of bytes. -/
inductive Decoded where
  /-- an instruction, or one prefix byte, of `len` bytes -/
  | done (i : Instr) (len : Nat)
  /-- a DecodeFault found with `len` bytes fetched (R131, R510) -/
  | fault (info : DecodeInfo) (len : Nat)
  /-- the list ends before the instruction does -/
  | short
deriving DecidableEq, Repr

/-- An instruction whose bytes are all fetched: the operand-size prefix on a row of class `fault` is a
DecodeFault (R101, R107). -/
def finish (opsize : Bool) (i : Instr) (len : Nat) : Decoded :=
  if opsize && i.opsizeClass == .faults then .fault .form len else .done i len

/-- An Iv immediate: 2 bytes, or 4 under the operand-size prefix (R114). -/
def takeImmV (opsize : Bool) (bs : List Byte) : Option ImmV :=
  match opsize, bs with
  | false, b0 :: b1 :: _ => some (.imm16 (half b0 b1))
  | true, b0 :: b1 :: b2 :: b3 :: _ => some (.imm32 (word b0 b1 b2 b3))
  | _, _ => none

/-- Fetch the immediate the row calls for; `len` bytes are fetched before it (R101). -/
def Tail.decode (opsize : Bool) (len : Nat) (bs : List Byte) : Tail → Decoded
  | .bad info => .fault info len
  | .badImm8 info =>
    match bs with
    | _ :: _ => .fault info (len + 1)
    | [] => .short
  | .badImmV info =>
    match takeImmV opsize bs with
    | some v => .fault info (len + v.encode.length)
    | none => .short
  | .done i => finish opsize i len
  | .imm8 f =>
    match bs with
    | b :: _ => finish opsize (f b) (len + 1)
    | [] => .short
  | .imm16 f =>
    match bs with
    | b0 :: b1 :: _ => finish opsize (f (half b0 b1)) (len + 2)
    | _ => .short
  | .immV f =>
    match takeImmV opsize bs with
    | some v => finish opsize (f v) (len + v.encode.length)
    | none => .short
  | .far f =>
    match bs with
    | b0 :: b1 :: b2 :: b3 :: _ => finish opsize (f (half b0 b1) (half b2 b3)) (len + 4)
    | _ => .short

/-- The operand a ModRM byte names, with its displacement taken from the bytes that follow, and how many bytes
the displacement has (R109, R110). -/
def takeOperand (m : Byte) (bs : List Byte) : Option (EOperand × Nat) :=
  let rm := m.extractLsb' 0 3
  match (m.extractLsb' 6 2).toNat with
  | 0 =>
    if rm = 6 then
      match bs with
      | b0 :: b1 :: _ => some (.mem (.direct (half b0 b1)), 2)
      | _ => none
    else some (.mem (.base (Base.ofCode rm)), 0)
  | 1 =>
    match bs with
    | b :: _ => some (.mem (.disp8 (Base.ofCode rm) b), 1)
    | [] => none
  | 2 =>
    match bs with
    | b0 :: b1 :: _ => some (.mem (.disp16 (Base.ofCode rm) (half b0 b1)), 2)
    | _ => none
  | _ => some (.reg (RegNum.ofCode rm), 0)

/-- Decode one instruction without its prefixes, or one prefix byte, at the head of a list of bytes; `opsize` is the
operand-size prefix latch (R101). -/
def decodeUnit (opsize : Bool) (bs : List Byte) : Decoded :=
  match bs with
  | [] => .short
  | b :: rest =>
    match opcodeRow b with
    | .none => .fault (.opcode b) 1
    | .plain t => t.decode opsize 1 rest
    | .modrm f =>
      match rest with
      | [] => .short
      | m :: rest' =>
        match takeOperand m rest' with
        | none => .short
        | some (e, k) => (f (RegNum.ofCode (m.extractLsb' 3 3)) e).decode opsize (2 + k) (rest'.drop k)

/-! ### A row's bits as the opcode table numbers them -/

/-- The bytes of an instruction whose bits are `w`, numbered as `spec/opcode_table.json` numbers them: the first
16 bits are the pair opcode byte (bits 15:8) and ModRM byte (bits 7:0) of R136; a later byte k (from 2) has bits
8k+7:8k. A row given in 8 bits is the opcode byte alone. The bits above `nbits` are 0. log 13 -/
def tableBytes (nbits w : Nat) : List Byte :=
  let first : List Byte :=
    if nbits ≤ 8 && w < 256 then [BitVec.ofNat 8 w, 0] else [BitVec.ofNat 8 (w / 256), BitVec.ofNat 8 w]
  first ++ (List.range 13).map fun k => BitVec.ofNat 8 (w / 256 ^ (k + 2))

/-- The instruction the decoder reads from a row's bits; none where it refuses. -/
def decodeTableWord (nbits w : Nat) : Option Instr :=
  match decodeUnit false (tableBytes nbits w) with
  | .done i _ => some i
  | .fault _ _ => none
  | .short => none

end Sys2Proof
end

