-- ==== Sys2Proof/Machine/State.lean ====
section
/-! DEFINITION. The state of the block as plain data, the reasons a step can stop, and the state after reset
(R20 to R42, R5, R550, R601). INVENTORY.md, '## State', lists every field with its rule and its reset value. -/

namespace Sys2Proof.Machine

/-- Why a step ends in a fault: the spec itself stops the run here. -/
inductive Fault where
  /-- Raised by the cycle under policy `halt` when the decoder finds no handler (R131, R510): the fault record, CS,
  the offset of the first byte, the bytes fetched and the reason. Safe: the spec gives this outcome. -/
  | decodeFault (cs ipStart : Half) (bytes : List Byte) (info : DecodeInfo)
deriving DecidableEq, Repr

/-- Why a step is refused: the model makes no claim about the hardware. -/
inductive Refusal where
  /-- Raised by exec's arm of an instruction that has no meaning yet; safe. -/
  | notModelled (mnemonic : String)
  /-- Raised by a memory access or a host `setBytes` at an address not below RAM_SIZE (R63, R79, U6); safe. -/
  | memoryRange
  /-- Raised by POPF and IRET when the popped image has bit 8 or bit 10 set (R30, U7); safe. -/
  | unsupportedFlagBit
deriving DecidableEq, Repr

/-- The eight general registers (R20). -/
structure Regs where
  eax : Word
  ecx : Word
  edx : Word
  ebx : Word
  esp : Word
  ebp : Word
  esi : Word
  edi : Word
deriving DecidableEq, Repr

/-- The four segment registers (R25). -/
structure SRegs where
  es : Half
  cs : Half
  ss : Half
  ds : Half
deriving DecidableEq, Repr

/-- The state of one drive of the disk channel (R551). -/
inductive DriveState where
  | notPresent
  | idle
  | busy
  /-- with the countdown of the bytes that remain -/
  | dataTransfer (remaining : Nat)
  | error
deriving DecidableEq, Repr

/-- The fields of a drive's status register (R550; `indexPulseCount` is a count, C5). -/
structure DriveStatus where
  busy : Bool
  driveReady : Bool
  writeFault : Bool
  seekComplete : Bool
  dataRequest : Bool
  correctedData : Bool
  indexPulse : Bool
  indexPulseCount : Nat
  error : Bool
deriving DecidableEq, Repr

/-- One drive slot: its type, its state and its own status fields (R550, R551). -/
structure Drive where
  kind : DriveKind
  state : DriveState
  status : DriveStatus
deriving DecidableEq, Repr

/-- The disk channel: slot 0 is the primary (master), slot 1 the slave (R550). -/
structure DiskChannel where
  slot0 : Drive
  slot1 : Drive
  /-- is slot 1 the selected one -/
  slaveSelected : Bool
deriving DecidableEq, Repr

/-- The device-internal state that the spec describes: of the disk channel (R550) and of the
configuration-mechanism stub (R426: whether an address write has been made). -/
inductive DeviceState where
  | disk (c : DiskChannel)
  | stub (addressWritten : Bool)
deriving DecidableEq, Repr

/-- What happens inside the disk channel: the events of R553 to R558. Which port access is which of them the spec
does not say, so the device's answer names it. log 19 -/
inductive DiskEvent where
  | select (slave : Bool)
  | command
  | dataReady (bytes : Nat)
  | transfer
  | fault
  | acknowledge
deriving DecidableEq, Repr

/-- What a device does besides answering: it acts on its own line, it sets the address-line gate, or the disk
channel changes its own state (R36, R412, R422, R503). -/
inductive DeviceAction where
  | raise
  | clear
  | gate (enabled : Bool)
  | disk (ev : DiskEvent)
deriving DecidableEq, Repr

/-- The answer of one device handler call (R412): a value and actions, or "not implemented by the device"
(R416). A write handler's value is not used. -/
inductive DeviceReply where
  | answer (value : Word) (actions : List DeviceAction)
  | unimplemented
deriving DecidableEq, Repr

/-- What can happen between two cycles: device work and the gate (R36, R503), a device's `reset()` by itself (R556), and
host actions (R12, R79, R570, R600). -/
inductive Input where
  /-- the `update()` of a device, with what it does -/
  | update (d : DeviceId) (actions : List DeviceAction)
  /-- the memory contract's address-line-gate toggle -/
  | gate (enabled : Bool)
  /-- the `reset()` of one device outside a system reset -/
  | deviceReset (d : DeviceId)
  | systemReset
  | setBytes (addr : Nat) (bytes : List Byte)
  | armWatch (addr : Nat)
  | disarmWatch
deriving DecidableEq, Repr

/-- Is a traced access a read (an instruction fetch is one) or a write. -/
inductive AccessKind where
  | read
  | write
deriving DecidableEq, Repr

/-- The trace record of one byte access at the watch address: the gated address and the kind of the access (R570; what a
record holds the spec leaves open, U20: log 10). -/
structure TraceRecord where
  addr : Nat
  kind : AccessKind
deriving DecidableEq, Repr

/-- The output records: diagnostics (R415), device handler calls (R410, R411) and the fault record of a DecodeFault that
does not stop the run (R510). log 10 -/
inductive BusEvent where
  | unmappedRead (port : Half) (bytes : Nat)
  | unmappedWrite (port : Half) (bytes : Nat) (value : Word)
  | deviceRead (d : DeviceId) (port : Half) (bytes : Nat)
  | deviceWrite (d : DeviceId) (port : Half) (bytes : Nat) (value : Word)
  /-- PortAccessFault (R416) -/
  | portAccessFault (d : DeviceId) (port : Half) (bytes : Nat)
  /-- ResourceExhaustion (R531, R537) -/
  | noLine (d : DeviceId)
  /-- InvariantViolation (R558) -/
  | notPresent (d : DeviceId)
  /-- DecodeFault under policy `vector6`: CS, `ip_start`, the bytes fetched and the reason (R510) -/
  | decodeFault (cs ipStart : Half) (bytes : List Byte) (info : DecodeInfo)
deriving DecidableEq, Repr

/-- Memory as a list of (address, byte), in the canonical form of `Memory.wf`. -/
abbrev Memory := List Host.Cell

/-- The whole state of the block. -/
structure State where
  /-- general registers (R20) -/
  regs : Regs
  /-- segment registers (R25) -/
  sregs : SRegs
  /-- instruction pointer (R27) -/
  ip : Half
  /-- the saved instruction start `ip_start` (R28, R101) -/
  ipStart : Half
  /-- the flag cells (R29) -/
  flags : Flags
  /-- the operand-size prefix latch (R32) -/
  opsizePfx : Bool
  /-- the segment-override latch (R32) -/
  segPfx : Option SReg
  /-- the halt latch (R33) -/
  halted : Bool
  /-- the memory array (R35) -/
  mem : Memory
  /-- the address-line gate, true when enabled (R36) -/
  a20 : Bool
  /-- the port map: owned port numbers with their owner, ports rising (R37) -/
  owner : List (Nat × DeviceId)
  /-- the line each device holds, devices rising (R38) -/
  lineOf : List (DeviceId × Nat)
  /-- the raised lines, rising (R38) -/
  pending : List Nat
  /-- the watch address (R39) -/
  watch : Option Nat
  /-- device-internal state, devices rising (R550, R426) -/
  devices : List (DeviceId × DeviceState)
  /-- the implementation parameters (R5) -/
  params : Params
  /-- MODEL's own: the inputs of the coming environment phases, oldest first (R503). log 7 -/
  phases : List (List Input)
  /-- MODEL's own: the answers of the coming device handler calls, oldest first (U11). log 7 -/
  replies : List DeviceReply
  /-- MODEL's own: how many device answers were taken as free values. log 7 -/
  portCalls : Nat
  /-- MODEL's own: the output records, newest first (R415). log 10 -/
  busLog : List BusEvent
  /-- MODEL's own: the trace records of accesses at the watch address, oldest first (R570). log 10 -/
  trace : List TraceRecord
deriving DecidableEq, Repr

/-- The machine after construction and its reset (R42, R601, R602), with the parameters of `Params.default` and its
empty device set. CS:ip, the flags, the latches, the lines and the watch address are the spec's; the general
registers, ES, SS, DS and `ipStart` at 0 are DESIGN CHOICE (log 4, log 16; unsafe), memory with nothing listed
log 5, the gate log 3. -/
def State.reset : State where
  regs := ⟨0, 0, 0, 0, 0, 0, 0, 0⟩
  sregs := ⟨0, Params.default.resetCs, 0, 0⟩
  ip := Params.default.resetIp
  ipStart := 0
  flags := ⟨false, false, false, false, false, false, false⟩
  opsizePfx := false
  segPfx := none
  halted := false
  mem := []
  a20 := Params.default.a20Reset
  owner := []
  lineOf := []
  pending := []
  watch := none
  devices := []
  params := Params.default
  phases := []
  replies := []
  portCalls := 0
  busLog := []
  trace := []

end Sys2Proof.Machine
end

