-- ==== Sys2Proof/Machine/Flags.lean ====
section
/-! DEFINITION. Every flag computation of the spec: the flag image (R30), result flags (R200), addition and
subtraction flags (R201, R202), logic flags (R204), the `UNDEF_FLAG` sites (R203), conditions (R120), and the
results and flags of the shift and rotate group (R261 to R268). -/

namespace Sys2Proof.Machine

/-! ### The flag image (R30) -/

/-- `FlagsImage()`: bits 0 to 15 in order; bit 1 is 1, bits 3, 5, 8, 10 and 12 to 15 are 0 (R30). -/
def flagsImage (f : Flags) : Half :=
  BitVec.ofBoolListLE [f.cf, true, f.pf, false, f.af, false, f.zf, f.sf,
    false, f.ifl, false, f.ofl, false, false, false, false]

/-- `LoadFlags(v)`: bits 1, 3, 5, 8, 10 and 12 to 15 are ignored (R30). -/
def flagsOfImage (v : Half) : Flags where
  cf := v.getLsbD 0
  pf := v.getLsbD 2
  af := v.getLsbD 4
  zf := v.getLsbD 6
  sf := v.getLsbD 7
  ofl := v.getLsbD 11
  ifl := v.getLsbD 9

/-- An image whose trap or direction flag position (bit 8, bit 10) is set: the model refuses to load it (U7). -/
def unsupportedImage (v : Half) : Bool := v.getLsbD 8 || v.getLsbD 10

/-! ### Result, addition, subtraction and logic flags -/

/-- 1 when the low byte has an even number of 1 bits (R8, R200). -/
def parity8 {n : Nat} (r : BitVec n) : Bool := ((List.range 8).countP fun i => r.getLsbD i) % 2 == 0

/-- `SetSZP` (R200). -/
def setSZP {n : Nat} (r : BitVec n) (f : Flags) : Flags :=
  { f with zf := r == 0, sf := r.msb, pf := parity8 r }

/-- `AddFlags(w, a, b, c)`: the result and the flags (R201). -/
def addFlags {n : Nat} (a b : BitVec n) (c : Bool) (f : Flags) : BitVec n × Flags :=
  let s := a.toNat + b.toNat + c.toNat
  let r := BitVec.ofNat n s
  (r, setSZP r { f with
    cf := 2 ^ n ≤ s
    ofl := a.msb == b.msb && r.msb != a.msb
    af := (a ^^^ b ^^^ r).getLsbD 4 })

/-- `SubFlags(w, a, b, c)`: the result and the flags (R202). -/
def subFlags {n : Nat} (a b : BitVec n) (c : Bool) (f : Flags) : BitVec n × Flags :=
  let d : Int := (a.toNat : Int) - b.toNat - c.toNat
  let r := BitVec.ofInt n d
  (r, setSZP r { f with
    cf := a.toNat < b.toNat + c.toNat
    ofl := a.msb != b.msb && r.msb != a.msb
    af := (a ^^^ b ^^^ r).getLsbD 4 })

/-- `LogicFlags(w, r)` (R204). -/
def logicFlags {n : Nat} (r : BitVec n) (f : Flags) : Flags :=
  setSZP r { f with cf := false, ofl := false, af := false }

/-- The eight two-operand instructions by number (R205). -/
inductive AluOp where
  | add
  | or
  | adc
  | sbb
  | and
  | sub
  | xor
  | cmp
deriving DecidableEq, Repr

/-- The result and the flags of a two-operand instruction on operands `a` and `b` (R210 to R217). For CMP the
result is not written by the caller. -/
def aluResult {n : Nat} (op : AluOp) (a b : BitVec n) (f : Flags) : BitVec n × Flags :=
  match op with
  | .add => addFlags a b false f
  | .or => (a ||| b, logicFlags (a ||| b) f)
  | .adc => addFlags a b f.cf f
  | .sbb => subFlags a b f.cf f
  | .and => (a &&& b, logicFlags (a &&& b) f)
  | .sub => subFlags a b false f
  | .xor => (a ^^^ b, logicFlags (a ^^^ b) f)
  | .cmp => subFlags a b false f

/-- INC: the flags of an addition of 1, CF as it was (R220). -/
def incResult {n : Nat} (a : BitVec n) (f : Flags) : BitVec n × Flags :=
  let (r, g) := addFlags a 1 false f
  (r, { g with cf := f.cf })

/-- DEC: the flags of a subtraction of 1, CF as it was (R221). -/
def decResult {n : Nat} (a : BitVec n) (f : Flags) : BitVec n × Flags :=
  let (r, g) := subFlags a 1 false f
  (r, { g with cf := f.cf })

/-! ### UNDEF_FLAG sites (R203) -/

/-- `UNDEF_FLAG` of one flag at one site: instruction, width, operand values, count and the flags before (R203).
log 6 -/
def undefFlag (op : UndefOp) (w : Width) (a : BitVec 64) (b : BitVec 32) (count : Nat) (f : Flags)
    (flag : FlagName) : Bool :=
  Config.undefFlag ⟨flag, op, w, a, b, count, f⟩

/-- Flags after MUL and IMUL: CF = OF say whether the high half matters; SF, ZF, AF, PF are `UNDEF_FLAG`
(R230, R231). -/
def mulFlags (op : UndefOp) (w : Width) (a : BitVec 64) (b : BitVec 32) (wide : Bool) (f : Flags) : Flags :=
  { f with
    cf := wide
    ofl := wide
    sf := undefFlag op w a b 0 f .sf
    zf := undefFlag op w a b 0 f .zf
    af := undefFlag op w a b 0 f .af
    pf := undefFlag op w a b 0 f .pf }

/-- Flags after DIV and IDIV: all six status flags are `UNDEF_FLAG` (R232, R233). -/
def divFlags (op : UndefOp) (w : Width) (n : BitVec 64) (d : BitVec 32) (f : Flags) : Flags :=
  { f with
    cf := undefFlag op w n d 0 f .cf
    pf := undefFlag op w n d 0 f .pf
    af := undefFlag op w n d 0 f .af
    zf := undefFlag op w n d 0 f .zf
    sf := undefFlag op w n d 0 f .sf
    ofl := undefFlag op w n d 0 f .ofl }

/-! ### Shifts and rotates (R260 to R268) -/

/-- The seven members of group 2 (R260). -/
inductive ShiftOp where
  | rol
  | ror
  | rcl
  | rcr
  | shl
  | shr
  | sar
deriving DecidableEq, Repr

/-- The instruction's name at its `UNDEF_FLAG` sites. -/
def ShiftOp.undefOp : ShiftOp → UndefOp
  | .rol => .rol
  | .ror => .ror
  | .rcl => .rcl
  | .rcr => .rcr
  | .shl => .shl
  | .shr => .shr
  | .sar => .sar

/-- Rotation by `e` places left (R262); `e` below the width. -/
def rotl {n : Nat} (a : BitVec n) (e : Nat) : BitVec n := (a <<< e) ||| (a >>> (n - e))

/-- Rotation by `e` places right (R263); `e` below the width. -/
def rotr {n : Nat} (a : BitVec n) (e : Nat) : BitVec n := (a >>> e) ||| (a <<< (n - e))

/-- How far RCL and RCR turn the (w+1)-bit value `{CF, a}` (R264, R265). -/
def throughCarryCount (n cnt : Nat) : Nat := if n = 32 then cnt else cnt % (n + 1)

/-- The result of a group 2 member on an `n`-bit operand and the old CF, for a count `cnt` in 1 to 31
(R262 to R268). -/
def shiftValue {n : Nat} (op : ShiftOp) (a : BitVec n) (cf : Bool) (cnt : Nat) : BitVec n :=
  match op with
  | .rol => rotl a (cnt % n)
  | .ror => rotr a (cnt % n)
  | .rcl => (rotl (BitVec.cons cf a) (throughCarryCount n cnt)).setWidth n
  | .rcr => (rotr (BitVec.cons cf a) (throughCarryCount n cnt)).setWidth n
  | .shl => a <<< cnt
  | .shr => a >>> cnt
  | .sar => ((a.signExtend 64).sshiftRight cnt).setWidth n

/-- The new CF of a group 2 member; none where it is `UNDEF_FLAG` (R262 to R268). -/
def shiftCarry {n : Nat} (op : ShiftOp) (a : BitVec n) (cf : Bool) (cnt : Nat) : Option Bool :=
  match op with
  | .rol => some ((shiftValue .rol a cf cnt).getLsbD 0)
  | .ror => some ((shiftValue .ror a cf cnt).msb)
  | .rcl => some ((rotl (BitVec.cons cf a) (throughCarryCount n cnt)).getLsbD n)
  | .rcr => some ((rotr (BitVec.cons cf a) (throughCarryCount n cnt)).getLsbD n)
  | .shl => if cnt < n then some (a.getLsbD (n - cnt)) else none
  | .shr => if cnt < n then some (a.getLsbD (cnt - 1)) else none
  | .sar => some ((a.signExtend 64).getLsbD (cnt - 1))

/-- The new OF of a group 2 member when the count is 1, from the operand, the result and the new CF
(R262 to R268). -/
def shiftOverflow {n : Nat} (op : ShiftOp) (a r : BitVec n) (newCf : Bool) : Bool :=
  match op with
  | .rol => r.msb ^^ newCf
  | .ror => r.msb ^^ r.getLsbD (n - 2)
  | .rcl => r.msb ^^ newCf
  | .rcr => r.msb ^^ r.getLsbD (n - 2)
  | .shl => r.msb ^^ newCf
  | .shr => a.msb
  | .sar => false

/-- Does the member write SF, ZF, PF and AF: the shifts do, the rotates do not (R261). -/
def ShiftOp.isShift : ShiftOp → Bool
  | .rol => false
  | .ror => false
  | .rcl => false
  | .rcr => false
  | .shl => true
  | .shr => true
  | .sar => true

/-- The result and the flags of a group 2 member for a count in 1 to 31 (R261 to R268). -/
def shiftResult (op : ShiftOp) (w : Width) (a : BitVec w.bits) (cnt : Nat) (f : Flags) :
    BitVec w.bits × Flags :=
  let undef := undefFlag op.undefOp w (a.setWidth 64) 0 cnt f
  let r := shiftValue op a f.cf cnt
  let newCf := (shiftCarry op a f.cf cnt).getD (undef .cf)
  let g := { f with
    cf := newCf
    ofl := if cnt = 1 then shiftOverflow op a r newCf else undef .ofl }
  (r, if op.isShift then setSZP r { g with af := undef .af } else g)

/-! ### Conditions (R120) -/

/-- The condition with number `cc` of a conditional jump (R120, R334 to R349). -/
inductive Cond where
  | o
  | no
  | b
  | ae
  | e
  | ne
  | be
  | a
  | s
  | ns
  | p
  | np
  | l
  | ge
  | le
  | g
deriving DecidableEq, Repr

/-- Is the jump taken (R120). -/
def Cond.holds (f : Flags) : Cond → Bool
  | .o => f.ofl
  | .no => !f.ofl
  | .b => f.cf
  | .ae => !f.cf
  | .e => f.zf
  | .ne => !f.zf
  | .be => f.cf || f.zf
  | .a => !f.cf && !f.zf
  | .s => f.sf
  | .ns => !f.sf
  | .p => f.pf
  | .np => !f.pf
  | .l => f.sf != f.ofl
  | .ge => f.sf == f.ofl
  | .le => f.zf || f.sf != f.ofl
  | .g => !f.zf && f.sf == f.ofl

end Sys2Proof.Machine
end

