-- ==== Sys2Proof/Machine/Ops.lean ====
section
/-! DEFINITION. The named operations over keyed lists, memory, registers, the stack and the vector table, taking an
exception or interrupt (R520) and returning from one (R373). -/

namespace Sys2Proof.Machine

/-- The outcome of an instruction. -/
abbrev Outcome := Host.Outcome State Fault Refusal

/-- A computation inside an instruction: a value with the trace records of the memory accesses made for it, oldest
first (R570), or a refusal. -/
inductive Eff (α : Type) where
  | ok (v : α) (records : List TraceRecord)
  | error (r : Refusal)
deriving DecidableEq, Repr

/-- The same computation, after accesses with these records. -/
def Eff.after {α : Type} (l : List TraceRecord) : Eff α → Eff α
  | .ok v l' => .ok v (l ++ l')
  | .error r => .error r

/-- One computation, then the next on its value; a refusal ends both. -/
def Eff.bind {α β : Type} (x : Eff α) (f : α → Eff β) : Eff β :=
  match x with
  | .ok a l => (f a).after l
  | .error r => .error r

/-- Emit trace records (R570). -/
def State.emit (s : State) (l : List TraceRecord) : State := { s with trace := s.trace ++ l }

/-- An instruction ends in the state its computation gives, its trace records emitted, or in its refusal. -/
def ofEff : Eff State → Outcome
  | .ok s l => .next (s.emit l)
  | .error r => .refused r

/-! ### Keyed lists -/

/-- The value at a key. -/
def Assoc.find {α : Type} (k : Nat) : List (Nat × α) → Option α
  | [] => none
  | (k', v) :: l => if k' = k then some v else Assoc.find k l

/-- The list without a key. -/
def Assoc.erase {α : Type} (k : Nat) (l : List (Nat × α)) : List (Nat × α) := l.filter fun c => c.1 != k

/-- Insert before the first larger key. -/
def Assoc.insert {α : Type} (k : Nat) (v : α) : List (Nat × α) → List (Nat × α)
  | [] => [(k, v)]
  | (k', v') :: l => if k < k' then (k, v) :: (k', v') :: l else (k', v') :: Assoc.insert k v l

/-- Set the value at a key. -/
def Assoc.put {α : Type} (k : Nat) (v : α) (l : List (Nat × α)) : List (Nat × α) :=
  Assoc.insert k v (Assoc.erase k l)

/-- The keys rise strictly. -/
abbrev Assoc.Sorted {α : Type} (l : List (Nat × α)) : Prop := l.Pairwise fun c d => c.1 < d.1

/-- Put a number into a rising list. -/
def Rising.insert (n : Nat) : List Nat → List Nat
  | [] => [n]
  | m :: l => if n < m then n :: m :: l else m :: Rising.insert n l

/-- Put a number into a rising list that may hold it already. -/
def Rising.put (n : Nat) (l : List Nat) : List Nat := Rising.insert n (l.filter fun m => m != n)

/-- Take a number out of a list. -/
def Rising.erase (n : Nat) (l : List Nat) : List Nat := l.filter fun m => m != n

/-! ### Memory (R35, R60 to R73) -/

/-- What a byte of memory that nothing has written reads as. The spec leaves it open (R42, U8): DESIGN CHOICE 0,
log 5 (unsafe). -/
def Memory.unlisted : Byte := 0

/-- One byte of the memory array. -/
def Memory.read (m : Memory) (a : Nat) : Byte := (Assoc.find a m).getD Memory.unlisted

/-- Set one byte of the memory array, keeping the canonical form. -/
def Memory.write (m : Memory) (a : Nat) (b : Byte) : Memory :=
  if b = Memory.unlisted then Assoc.erase a m else Assoc.put a b m

/-- The canonical form: addresses strictly rising, no entry equal to what an unlisted address reads as. -/
abbrev Memory.wf (m : Memory) : Prop := Assoc.Sorted m ∧ ∀ c ∈ m, c.2 ≠ Memory.unlisted

/-- Write consecutive bytes of the memory array (R79). -/
def Memory.writeBytes (m : Memory) (a : Nat) : List Byte → Memory
  | [] => m
  | b :: bs => Memory.writeBytes (m.write a b) (a + 1) bs

/-- The linear address of an offset in the segment with selector value `sel` (R61). -/
def linear (sel off : Half) : Linear := (sel.setWidth 21 <<< 4) + off.setWidth 21

/-- The address-line gate: when disabled, bits above bit 19 are cleared (R62). -/
def State.gate (s : State) (a : Linear) : Linear := if s.a20 then a else (a.extractLsb' 0 20).setWidth 21

/-- The physical address of an absolute address (R62). -/
def State.phys (s : State) (a : Linear) : Nat := (s.gate a).toNat

/-- Is the byte at an absolute address backed by memory (R63). -/
def State.backed (s : State) (a : Linear) : Bool := s.phys a < s.params.ramSize

/-- A byte at an absolute address as the CPU reads it, if it is backed: the byte at the gated address (R62, R64). -/
def State.byteAt (s : State) (a : Linear) : Byte := s.mem.read (s.phys a)

/-- A byte access at this absolute address is flagged for tracing: the comparison is on the gated address and per
byte (R71, R570). -/
def State.watchFlags (s : State) (a : Linear) : Bool := s.watch == some (s.phys a)

/-- The trace records of one byte access: one when it is flagged (R64, R65, R570). -/
def State.flag (s : State) (k : AccessKind) (a : Linear) : List TraceRecord :=
  if s.watchFlags a then [⟨s.phys a, k⟩] else []

/-- One byte of `MemRead` (R64). -/
def State.readByte (s : State) (a : Linear) : Eff Byte :=
  if s.backed a then .ok (s.byteAt a) (s.flag .read a) else .error .memoryRange

/-- One byte of `MemWrite` (R65). -/
def State.writeByte (s : State) (a : Linear) (b : Byte) : Eff State :=
  if s.backed a then .ok { s with mem := s.mem.write (s.phys a) b } (s.flag .write a) else .error .memoryRange

/-- `MemRead(addr, n)`, little-endian, no offset wrap; n at most 4 (R64, R68). -/
def State.memRead (s : State) (a : Linear) : Nat → Eff Word
  | 0 => .ok 0 []
  | n + 1 =>
    (s.readByte a).bind fun b =>
    (s.memRead (a + 1) n).bind fun rest =>
    .ok ((rest <<< 8) ||| b.setWidth 32) []

/-- `MemWrite(addr, n, v)`, little-endian, no offset wrap (R65, R68). -/
def State.memWrite (s : State) (a : Linear) : Nat → Word → Eff State
  | 0, _ => .ok s []
  | n + 1, v =>
    (s.writeByte a (v.setWidth 8)).bind fun s' =>
    s'.memWrite (a + 1) n (v >>> 8)

/-- `SegRead(s, off, n)`: byte by byte through `MemRead`, little-endian, the offset wraps modulo 2^16; n at most 4
(R66, R68). -/
def State.segRead (s : State) (sel off : Half) : Nat → Eff Word
  | 0 => .ok 0 []
  | n + 1 =>
    (s.memRead (linear sel off) 1).bind fun b =>
    (s.segRead sel (off + 1) n).bind fun rest =>
    .ok ((rest <<< 8) ||| b) []

/-- `SegWrite(s, off, n, v)`: byte by byte through `MemWrite`, little-endian, the offset wraps modulo 2^16
(R67, R68). -/
def State.segWrite (s : State) (sel off : Half) : Nat → Word → Eff State
  | 0, _ => .ok s []
  | n + 1, v =>
    (s.memWrite (linear sel off) 1 v).bind fun s' =>
    s'.segWrite sel (off + 1) n (v >>> 8)

/-! ### Registers (R20 to R27) -/

/-- Register `i`, all 32 bits (R20). -/
def Regs.get (g : Regs) : RegNum → Word
  | .r0 => g.eax
  | .r1 => g.ecx
  | .r2 => g.edx
  | .r3 => g.ebx
  | .r4 => g.esp
  | .r5 => g.ebp
  | .r6 => g.esi
  | .r7 => g.edi

/-- Set register `i`, all 32 bits (R20). -/
def Regs.set (g : Regs) (i : RegNum) (v : Word) : Regs :=
  match i with
  | .r0 => { g with eax := v }
  | .r1 => { g with ecx := v }
  | .r2 => { g with edx := v }
  | .r3 => { g with ebx := v }
  | .r4 => { g with esp := v }
  | .r5 => { g with ebp := v }
  | .r6 => { g with esi := v }
  | .r7 => { g with edi := v }

/-- A segment register (R25). -/
def SRegs.get (g : SRegs) : SReg → Half
  | .es => g.es
  | .cs => g.cs
  | .ss => g.ss
  | .ds => g.ds

/-- Set a segment register (R25, R26). -/
def SRegs.set (g : SRegs) (i : SReg) (v : Half) : SRegs :=
  match i with
  | .es => { g with es := v }
  | .cs => { g with cs := v }
  | .ss => { g with ss := v }
  | .ds => { g with ds := v }

/-- Which register an 8-bit view lies in, and whether it is the high byte (R22). -/
def byteView : RegNum → RegNum × Bool
  | .r0 => (.r0, false)
  | .r1 => (.r1, false)
  | .r2 => (.r2, false)
  | .r3 => (.r3, false)
  | .r4 => (.r0, true)
  | .r5 => (.r1, true)
  | .r6 => (.r2, true)
  | .r7 => (.r3, true)

/-- Replace bits 15:0 (R21). -/
def setLowHalf (x : Word) (v : Half) : Word := x.extractLsb' 16 16 ++ v

/-- Replace bits 7:0 (R22). -/
def setLowByte (x : Word) (v : Byte) : Word := x.extractLsb' 8 24 ++ v

/-- Replace bits 15:8 (R22). -/
def setHighByte (x : Word) (v : Byte) : Word := x.extractLsb' 16 16 ++ v ++ x.extractLsb' 0 8

/-- `reg_w[i]` (R20 to R23). -/
def State.readReg (s : State) : (w : Width) → RegNum → BitVec w.bits
  | .w8, i =>
    let (j, high) := byteView i
    if high then (s.regs.get j).extractLsb' 8 8 else (s.regs.get j).extractLsb' 0 8
  | .w16, i => (s.regs.get i).extractLsb' 0 16
  | .w32, i => s.regs.get i

/-- What register file a write `reg_w[i] <- v` leaves: a narrow write keeps the other bits (R20 to R23). -/
def Regs.write (g : Regs) : (w : Width) → RegNum → BitVec w.bits → Regs
  | .w8, i, v =>
    let (j, high) := byteView i
    g.set j (if high then setHighByte (g.get j) v else setLowByte (g.get j) v)
  | .w16, i, v => g.set i (setLowHalf (g.get i) v)
  | .w32, i, v => g.set i v

/-- `reg_w[i] <- v` (R20 to R23). -/
def State.writeReg (s : State) (w : Width) (i : RegNum) (v : BitVec w.bits) : State :=
  { s with regs := s.regs.write w i v }

/-- `sreg[i]` (R25). -/
def State.sreg (s : State) (i : SReg) : Half := s.sregs.get i

/-- `sreg[i] <- v` (R25, R26). -/
def State.setSreg (s : State) (i : SReg) (v : Half) : State := { s with sregs := s.sregs.set i v }

/-- `ip <- v`: a near transfer (R27, R380). -/
def State.setIp (s : State) (v : Half) : State := { s with ip := v }

/-- `CS:ip <- sel:off`: a far transfer (R27, R380). -/
def State.setCsIp (s : State) (sel off : Half) : State := (s.setSreg .cs sel).setIp off

/-- Write the flag cells. -/
def State.setFlags (s : State) (f : Flags) : State := { s with flags := f }

/-- SP (R24). -/
def State.sp (s : State) : Half := s.readReg .w16 .r4

/-- `r16[4] <- v` (R24). -/
def State.setSp (s : State) (v : Half) : State := s.writeReg .w16 .r4 v

/-- The operand width of class `v`: 16, or 32 under the operand-size latch (R106). -/
def State.vWidth (s : State) : Width := if s.opsizePfx then .w32 else .w16

/-! ### The stack (R300, R301) -/

/-- `Push16` and `Push32` (R300), for the width `w`. -/
def State.push (s : State) (w : Width) (v : BitVec w.bits) : Eff State :=
  let sp := s.sp - BitVec.ofNat 16 w.bytes
  (s.setSp sp).segWrite (s.sreg .ss) sp w.bytes (v.setWidth 32)

/-- `Pop16` and `Pop32` (R301), for the width `w`: the value and the state with SP moved. -/
def State.pop (s : State) (w : Width) : Eff (BitVec w.bits × State) :=
  (s.segRead (s.sreg .ss) s.sp w.bytes).bind fun v =>
  .ok (v.setWidth w.bits, s.setSp (s.sp + BitVec.ofNat 16 w.bytes)) []

/-! ### Taking an exception or interrupt, and returning (R520, R521, R373) -/

/-- `Interrupt(v, ret)`: the entry sequence of every exception and interrupt that has a vector (R520). It pushes the
flag image, clears IF, pushes CS and the return offset, loads ip and CS from the vector table entry at physical
`4*v` (R521) and ends a halt. -/
def State.interrupt (s : State) (v : Byte) (ret : Half) : Eff State :=
  let entry : Linear := v.setWidth 21 <<< 2
  (s.push .w16 (flagsImage s.flags)).bind fun s1 =>
  let s2 := s1.setFlags { s1.flags with ifl := false }
  (s2.push .w16 (s2.sreg .cs)).bind fun s3 =>
  (s3.push .w16 ret).bind fun s4 =>
  (s4.memRead entry 2).bind fun off =>
  (s4.memRead (entry + 2) 2).bind fun sel =>
  .ok { s4.setCsIp (sel.setWidth 16) (off.setWidth 16) with halted := false } []

/-- `LoadFlags(v)` as POPF and IRET do it: an image with bit 8 or bit 10 set is refused (R30, U7). -/
def State.loadFlags (s : State) (v : Half) : Eff State :=
  if unsupportedImage v then .error .unsupportedFlagBit else .ok (s.setFlags (flagsOfImage v)) []

/-- The return from an interrupt: pop ip, CS and the flag image (R373, R522). -/
def State.interruptReturn (s : State) : Eff State :=
  (s.pop .w16).bind fun (off, s1) =>
  (s1.pop .w16).bind fun (sel, s2) =>
  (s2.pop .w16).bind fun (image, s3) =>
  (s3.setCsIp sel off).loadFlags image

end Sys2Proof.Machine
end

