-- ==== Sys2Proof/Machine/Operands.lean ====
section
/-! DEFINITION. Every operand form: effective offset and segment of a memory operand (R110, R111), E, G and
direct-offset operands (R112, R113, R116), far pointers in memory (R108), immediates (R114), relative
targets (R115). -/

namespace Sys2Proof.Machine

/-- The base expression of an address form, from the 16-bit views (R110). -/
def State.baseValue (s : State) : Base → Half
  | .bxSi => s.readReg .w16 .r3 + s.readReg .w16 .r6
  | .bxDi => s.readReg .w16 .r3 + s.readReg .w16 .r7
  | .bpSi => s.readReg .w16 .r5 + s.readReg .w16 .r6
  | .bpDi => s.readReg .w16 .r5 + s.readReg .w16 .r7
  | .si => s.readReg .w16 .r6
  | .di => s.readReg .w16 .r7
  | .bp => s.readReg .w16 .r5
  | .bx => s.readReg .w16 .r3

/-- The effective offset of a memory operand, modulo 2^16 (R110). -/
def State.eaOff (s : State) : MemOperand → Half
  | .direct d => d
  | .base b => s.baseValue b
  | .disp8 b d => s.baseValue b + d.signExtend 16
  | .disp16 b d => s.baseValue b + d

/-- The default segment of a base expression: SS where BP is in it, else DS (R110). -/
def baseSeg : Base → SReg
  | .bxSi => .ds
  | .bxDi => .ds
  | .bpSi => .ss
  | .bpDi => .ss
  | .si => .ds
  | .di => .ds
  | .bp => .ss
  | .bx => .ds

/-- The default segment of a memory operand (R110, R111). -/
def memSeg : MemOperand → SReg
  | .direct _ => .ds
  | .base b => baseSeg b
  | .disp8 b _ => baseSeg b
  | .disp16 b _ => baseSeg b

/-- The selector of an operand with this default segment, the override latch considered (R111). -/
def State.dataSeg (s : State) (dflt : SReg) : Half := s.sreg (s.segPfx.getD dflt)

/-- The selector of a memory operand (R111). -/
def State.eaSeg (s : State) (m : MemOperand) : Half := s.dataSeg (memSeg m)

/-- A value of width `w` in a segment (R66). -/
def State.readSeg (s : State) (w : Width) (sel off : Half) : Eff (BitVec w.bits) :=
  (s.segRead sel off w.bytes).bind fun v => .ok (v.setWidth w.bits) []

/-- Store a value of width `w` in a segment (R67). -/
def State.writeSeg (s : State) (w : Width) (sel off : Half) (v : BitVec w.bits) : Eff State :=
  s.segWrite sel off w.bytes (v.setWidth 32)

/-- `ReadE(w)` (R112). -/
def State.readE (s : State) (w : Width) : EOperand → Eff (BitVec w.bits)
  | .reg i => .ok (s.readReg w i) []
  | .mem m => s.readSeg w (s.eaSeg m) (s.eaOff m)

/-- `WriteE(w, v)` (R112). -/
def State.writeE (s : State) (w : Width) (e : EOperand) (v : BitVec w.bits) : Eff State :=
  match e with
  | .reg i => .ok (s.writeReg w i v) []
  | .mem m => s.writeSeg w (s.eaSeg m) (s.eaOff m) v

/-- A far pointer in memory: the offset word at the address, the selector word at the address + 2 (R108). -/
def State.readFarPointer (s : State) (m : MemOperand) : Eff (Half × Half) :=
  (s.readSeg .w16 (s.eaSeg m) (s.eaOff m)).bind fun off =>
  (s.readSeg .w16 (s.eaSeg m) (s.eaOff m + 2)).bind fun sel =>
  .ok (off, sel) []

/-- An Iv immediate as an operand of width `w` (R114). -/
def immValue (w : Width) : ImmV → BitVec w.bits
  | .imm16 v => v.setWidth w.bits
  | .imm32 v => v.setWidth w.bits

/-- An Ibs immediate as an operand of width `w`: sign-extended (R114). -/
def immSignExtended (w : Width) (b : Byte) : BitVec w.bits := b.signExtend w.bits

/-- A relative target: `ip` holds `ip_next` when an instruction executes (R28, R115). -/
def State.relTarget (s : State) (d : Half) : Half := s.ip + d

/-- A relative target with an 8-bit displacement (R115). -/
def State.relTarget8 (s : State) (d : Byte) : Half := s.relTarget (d.signExtend 16)

end Sys2Proof.Machine
end

