-- ==== Sys2Proof/Machine/Arithmetic.lean ====
section
/-! DEFINITION. Arithmetic and logic: ADD, OR, ADC, SBB, AND, SUB, XOR, CMP, TEST, INC, DEC, NEG, NOT, MUL, IMUL, DIV, IDIV (R205 to R233). -/

namespace Sys2Proof.Machine

/-- A two-operand instruction with destination `e` and source value `b`: CMP writes only flags (R205, R210 to
R217). -/
def aluOnE (op : AluOp) (w : Width) (e : EOperand) (b : BitVec w.bits) (s : State) : Eff State :=
  (s.readE w e).bind fun a =>
  let rf := aluResult op a b s.flags
  if op = .cmp then .ok (s.setFlags rf.2) [] else (s.setFlags rf.2).writeE w e rf.1

/-- The forms E,G (R205). -/
def aluEG (op : AluOp) (w : Width) (e : EOperand) (g : RegNum) (s : State) : Outcome :=
  ofEff (aluOnE op w e (s.readReg w g) s)

/-- The forms G,E (R205). -/
def aluGE (op : AluOp) (w : Width) (g : RegNum) (e : EOperand) (s : State) : Outcome :=
  ofEff <|
    (s.readE w e).bind fun b =>
    aluOnE op w (.reg g) b s

/-- The forms with an immediate; the accumulator forms have register 0 as their destination (R205). -/
def aluEI (op : AluOp) (w : Width) (e : EOperand) (b : BitVec w.bits) (s : State) : Outcome :=
  ofEff (aluOnE op w e b s)

/-- TEST: the flags of the AND, nothing else written (R218). -/
def testE (w : Width) (e : EOperand) (b : BitVec w.bits) (s : State) : Outcome :=
  ofEff <|
    (s.readE w e).bind fun a =>
    .ok (s.setFlags (logicFlags (a &&& b) s.flags)) []

/-- Read an E operand, compute a result and the flags, write both (R220 to R223). -/
def unaryE (w : Width) (f : BitVec w.bits → Flags → BitVec w.bits × Flags) (e : EOperand) (s : State) : Outcome :=
  ofEff <|
    (s.readE w e).bind fun a =>
    let rf := f a s.flags
    (s.setFlags rf.2).writeE w e rf.1

/-- INC (R220). -/
def incE (w : Width) (e : EOperand) (s : State) : Outcome := unaryE w incResult e s

/-- DEC (R221). -/
def decE (w : Width) (e : EOperand) (s : State) : Outcome := unaryE w decResult e s

/-- NEG: 0 - a (R222). -/
def negE (w : Width) (e : EOperand) (s : State) : Outcome := unaryE w (fun a f => subFlags 0 a false f) e s

/-- NOT: no flag changes (R223). -/
def notE (w : Width) (e : EOperand) (s : State) : Outcome := unaryE w (fun a f => (a ^^^ BitVec.allOnes w.bits, f)) e s

/-- The register that holds the high half of the double-width accumulator: AH at width 8, else DX or EDX
(R230, R232). -/
def highAcc : Width → RegNum
  | .w8 => .r4
  | .w16 => .r2
  | .w32 => .r2

/-- Write the double-width accumulator: AX, DX:AX or EDX:EAX (R230, R232). -/
def writeAccPair (w : Width) (hi lo : BitVec w.bits) (s : State) : State :=
  (s.writeReg w .r0 lo).writeReg w (highAcc w) hi

/-- MUL: the exact unsigned product; CF = OF = 1 when its high half is not 0 (R230). -/
def mulE (w : Width) (e : EOperand) (s : State) : Outcome :=
  ofEff <|
    (s.readE w e).bind fun b =>
    let a := s.readReg w .r0
    let p := a.toNat * b.toNat
    let lo := BitVec.ofNat w.bits p
    let hi := BitVec.ofNat w.bits (p / 2 ^ w.bits)
    let f := mulFlags .mul w (a.setWidth 64) (b.setWidth 32) (hi != 0) s.flags
    .ok (writeAccPair w hi lo (s.setFlags f)) []

/-- IMUL: the exact signed product; CF = OF = 1 when its low half does not sign-extend to it (R231). -/
def imulE (w : Width) (e : EOperand) (s : State) : Outcome :=
  ofEff <|
    (s.readE w e).bind fun b =>
    let a := s.readReg w .r0
    let p := a.toInt * b.toInt
    let lo := BitVec.ofInt w.bits p
    let hi := BitVec.ofInt w.bits (p / 2 ^ w.bits)
    let f := mulFlags .imul w (a.setWidth 64) (b.setWidth 32) (p != lo.toInt) s.flags
    .ok (writeAccPair w hi lo (s.setFlags f)) []

/-- The dividend as its two halves (R232). -/
def State.accPair (s : State) (w : Width) : BitVec w.bits × BitVec w.bits :=
  (s.readReg w (highAcc w), s.readReg w .r0)

/-- The dividend's bits, zero-extended, as an operand of `UNDEF_FLAG` (R203). -/
def dividendBits (w : Width) (hi lo : BitVec w.bits) : BitVec 64 :=
  (hi.setWidth 64 <<< w.bits) ||| lo.setWidth 64

/-- The divide error: vector 0, the return offset is the start of the instruction (R512). -/
def divideError (s : State) : Eff State := s.interrupt 0 s.ipStart

/-- DIV (R232). -/
def divE (w : Width) (e : EOperand) (s : State) : Outcome :=
  ofEff <|
    (s.readE w e).bind fun d =>
    let n := (s.accPair w).1.toNat * 2 ^ w.bits + (s.accPair w).2.toNat
    let q := n / d.toNat
    if d = 0 ∨ 2 ^ w.bits ≤ q then divideError s
    else
      let f := divFlags .div w (dividendBits w (s.accPair w).1 (s.accPair w).2) (d.setWidth 32) s.flags
      .ok (writeAccPair w (BitVec.ofNat w.bits (n % d.toNat)) (BitVec.ofNat w.bits q) (s.setFlags f)) []

/-- IDIV: the quotient rounds toward zero, the remainder has the sign of the dividend (R206, R233). -/
def idivE (w : Width) (e : EOperand) (s : State) : Outcome :=
  ofEff <|
    (s.readE w e).bind fun d =>
    let n : Int := (s.accPair w).1.toInt * 2 ^ w.bits + (s.accPair w).2.toNat
    let q := n.tdiv d.toInt
    if d = 0 ∨ 2 ^ (w.bits - 1) ≤ q ∨ q < -2 ^ (w.bits - 1) then divideError s
    else
      let f := divFlags .idiv w (dividendBits w (s.accPair w).1 (s.accPair w).2) (d.setWidth 32) s.flags
      .ok (writeAccPair w (BitVec.ofInt w.bits (n.tmod d.toInt)) (BitVec.ofInt w.bits q) (s.setFlags f)) []

/-- ADD Eb,Gb: 0x00 (R210). -/
def execAddEbGb (e : EOperand) (g : RegNum) (s : State) : Outcome := aluEG .add .w8 e g s

/-- ADD Ev,Gv: 0x01 (R210). -/
def execAddEvGv (e : EOperand) (g : RegNum) (s : State) : Outcome := aluEG .add s.vWidth e g s

/-- ADD Gb,Eb: 0x02 (R210). -/
def execAddGbEb (g : RegNum) (e : EOperand) (s : State) : Outcome := aluGE .add .w8 g e s

/-- ADD Gv,Ev: 0x03 (R210). -/
def execAddGvEv (g : RegNum) (e : EOperand) (s : State) : Outcome := aluGE .add s.vWidth g e s

/-- ADD AL,Ib: 0x04 (R210). -/
def execAddAlIb (ib : Byte) (s : State) : Outcome := aluEI .add .w8 (.reg .r0) ib s

/-- ADD eAX,Iv: 0x05 (R210). -/
def execAddEaxIv (iv : ImmV) (s : State) : Outcome := aluEI .add s.vWidth (.reg .r0) (immValue s.vWidth iv) s

/-- ADD Eb,Ib: 0x80 /0 (R210). -/
def execAddEbIb (e : EOperand) (ib : Byte) (s : State) : Outcome := aluEI .add .w8 e ib s

/-- ADD Ev,Iv: 0x81 /0 (R210). -/
def execAddEvIv (e : EOperand) (iv : ImmV) (s : State) : Outcome := aluEI .add s.vWidth e (immValue s.vWidth iv) s

/-- ADD Ev,Ibs: 0x83 /0 (R210). -/
def execAddEvIbs (e : EOperand) (ib : Byte) (s : State) : Outcome := aluEI .add s.vWidth e (immSignExtended s.vWidth ib) s

/-- OR Eb,Gb: 0x08 (R211). -/
def execOrEbGb (e : EOperand) (g : RegNum) (s : State) : Outcome := aluEG .or .w8 e g s

/-- OR Ev,Gv: 0x09 (R211). -/
def execOrEvGv (e : EOperand) (g : RegNum) (s : State) : Outcome := aluEG .or s.vWidth e g s

/-- OR Gb,Eb: 0x0A (R211). -/
def execOrGbEb (g : RegNum) (e : EOperand) (s : State) : Outcome := aluGE .or .w8 g e s

/-- OR Gv,Ev: 0x0B (R211). -/
def execOrGvEv (g : RegNum) (e : EOperand) (s : State) : Outcome := aluGE .or s.vWidth g e s

/-- OR AL,Ib: 0x0C (R211). -/
def execOrAlIb (ib : Byte) (s : State) : Outcome := aluEI .or .w8 (.reg .r0) ib s

/-- OR eAX,Iv: 0x0D (R211). -/
def execOrEaxIv (iv : ImmV) (s : State) : Outcome := aluEI .or s.vWidth (.reg .r0) (immValue s.vWidth iv) s

/-- OR Eb,Ib: 0x80 /1 (R211). -/
def execOrEbIb (e : EOperand) (ib : Byte) (s : State) : Outcome := aluEI .or .w8 e ib s

/-- OR Ev,Iv: 0x81 /1 (R211). -/
def execOrEvIv (e : EOperand) (iv : ImmV) (s : State) : Outcome := aluEI .or s.vWidth e (immValue s.vWidth iv) s

/-- OR Ev,Ibs: 0x83 /1 (R211). -/
def execOrEvIbs (e : EOperand) (ib : Byte) (s : State) : Outcome := aluEI .or s.vWidth e (immSignExtended s.vWidth ib) s

/-- ADC Eb,Gb: 0x10 (R212). -/
def execAdcEbGb (e : EOperand) (g : RegNum) (s : State) : Outcome := aluEG .adc .w8 e g s

/-- ADC Ev,Gv: 0x11 (R212). -/
def execAdcEvGv (e : EOperand) (g : RegNum) (s : State) : Outcome := aluEG .adc s.vWidth e g s

/-- ADC Gb,Eb: 0x12 (R212). -/
def execAdcGbEb (g : RegNum) (e : EOperand) (s : State) : Outcome := aluGE .adc .w8 g e s

/-- ADC Gv,Ev: 0x13 (R212). -/
def execAdcGvEv (g : RegNum) (e : EOperand) (s : State) : Outcome := aluGE .adc s.vWidth g e s

/-- ADC AL,Ib: 0x14 (R212). -/
def execAdcAlIb (ib : Byte) (s : State) : Outcome := aluEI .adc .w8 (.reg .r0) ib s

/-- ADC eAX,Iv: 0x15 (R212). -/
def execAdcEaxIv (iv : ImmV) (s : State) : Outcome := aluEI .adc s.vWidth (.reg .r0) (immValue s.vWidth iv) s

/-- ADC Eb,Ib: 0x80 /2 (R212). -/
def execAdcEbIb (e : EOperand) (ib : Byte) (s : State) : Outcome := aluEI .adc .w8 e ib s

/-- ADC Ev,Iv: 0x81 /2 (R212). -/
def execAdcEvIv (e : EOperand) (iv : ImmV) (s : State) : Outcome := aluEI .adc s.vWidth e (immValue s.vWidth iv) s

/-- ADC Ev,Ibs: 0x83 /2 (R212). -/
def execAdcEvIbs (e : EOperand) (ib : Byte) (s : State) : Outcome := aluEI .adc s.vWidth e (immSignExtended s.vWidth ib) s

/-- SBB Eb,Gb: 0x18 (R213). -/
def execSbbEbGb (e : EOperand) (g : RegNum) (s : State) : Outcome := aluEG .sbb .w8 e g s

/-- SBB Ev,Gv: 0x19 (R213). -/
def execSbbEvGv (e : EOperand) (g : RegNum) (s : State) : Outcome := aluEG .sbb s.vWidth e g s

/-- SBB Gb,Eb: 0x1A (R213). -/
def execSbbGbEb (g : RegNum) (e : EOperand) (s : State) : Outcome := aluGE .sbb .w8 g e s

/-- SBB Gv,Ev: 0x1B (R213). -/
def execSbbGvEv (g : RegNum) (e : EOperand) (s : State) : Outcome := aluGE .sbb s.vWidth g e s

/-- SBB AL,Ib: 0x1C (R213). -/
def execSbbAlIb (ib : Byte) (s : State) : Outcome := aluEI .sbb .w8 (.reg .r0) ib s

/-- SBB eAX,Iv: 0x1D (R213). -/
def execSbbEaxIv (iv : ImmV) (s : State) : Outcome := aluEI .sbb s.vWidth (.reg .r0) (immValue s.vWidth iv) s

/-- SBB Eb,Ib: 0x80 /3 (R213). -/
def execSbbEbIb (e : EOperand) (ib : Byte) (s : State) : Outcome := aluEI .sbb .w8 e ib s

/-- SBB Ev,Iv: 0x81 /3 (R213). -/
def execSbbEvIv (e : EOperand) (iv : ImmV) (s : State) : Outcome := aluEI .sbb s.vWidth e (immValue s.vWidth iv) s

/-- SBB Ev,Ibs: 0x83 /3 (R213). -/
def execSbbEvIbs (e : EOperand) (ib : Byte) (s : State) : Outcome := aluEI .sbb s.vWidth e (immSignExtended s.vWidth ib) s

/-- AND Eb,Gb: 0x20 (R214). -/
def execAndEbGb (e : EOperand) (g : RegNum) (s : State) : Outcome := aluEG .and .w8 e g s

/-- AND Ev,Gv: 0x21 (R214). -/
def execAndEvGv (e : EOperand) (g : RegNum) (s : State) : Outcome := aluEG .and s.vWidth e g s

/-- AND Gb,Eb: 0x22 (R214). -/
def execAndGbEb (g : RegNum) (e : EOperand) (s : State) : Outcome := aluGE .and .w8 g e s

/-- AND Gv,Ev: 0x23 (R214). -/
def execAndGvEv (g : RegNum) (e : EOperand) (s : State) : Outcome := aluGE .and s.vWidth g e s

/-- AND AL,Ib: 0x24 (R214). -/
def execAndAlIb (ib : Byte) (s : State) : Outcome := aluEI .and .w8 (.reg .r0) ib s

/-- AND eAX,Iv: 0x25 (R214). -/
def execAndEaxIv (iv : ImmV) (s : State) : Outcome := aluEI .and s.vWidth (.reg .r0) (immValue s.vWidth iv) s

/-- AND Eb,Ib: 0x80 /4 (R214). -/
def execAndEbIb (e : EOperand) (ib : Byte) (s : State) : Outcome := aluEI .and .w8 e ib s

/-- AND Ev,Iv: 0x81 /4 (R214). -/
def execAndEvIv (e : EOperand) (iv : ImmV) (s : State) : Outcome := aluEI .and s.vWidth e (immValue s.vWidth iv) s

/-- AND Ev,Ibs: 0x83 /4 (R214). -/
def execAndEvIbs (e : EOperand) (ib : Byte) (s : State) : Outcome := aluEI .and s.vWidth e (immSignExtended s.vWidth ib) s

/-- SUB Eb,Gb: 0x28 (R215). -/
def execSubEbGb (e : EOperand) (g : RegNum) (s : State) : Outcome := aluEG .sub .w8 e g s

/-- SUB Ev,Gv: 0x29 (R215). -/
def execSubEvGv (e : EOperand) (g : RegNum) (s : State) : Outcome := aluEG .sub s.vWidth e g s

/-- SUB Gb,Eb: 0x2A (R215). -/
def execSubGbEb (g : RegNum) (e : EOperand) (s : State) : Outcome := aluGE .sub .w8 g e s

/-- SUB Gv,Ev: 0x2B (R215). -/
def execSubGvEv (g : RegNum) (e : EOperand) (s : State) : Outcome := aluGE .sub s.vWidth g e s

/-- SUB AL,Ib: 0x2C (R215). -/
def execSubAlIb (ib : Byte) (s : State) : Outcome := aluEI .sub .w8 (.reg .r0) ib s

/-- SUB eAX,Iv: 0x2D (R215). -/
def execSubEaxIv (iv : ImmV) (s : State) : Outcome := aluEI .sub s.vWidth (.reg .r0) (immValue s.vWidth iv) s

/-- SUB Eb,Ib: 0x80 /5 (R215). -/
def execSubEbIb (e : EOperand) (ib : Byte) (s : State) : Outcome := aluEI .sub .w8 e ib s

/-- SUB Ev,Iv: 0x81 /5 (R215). -/
def execSubEvIv (e : EOperand) (iv : ImmV) (s : State) : Outcome := aluEI .sub s.vWidth e (immValue s.vWidth iv) s

/-- SUB Ev,Ibs: 0x83 /5 (R215). -/
def execSubEvIbs (e : EOperand) (ib : Byte) (s : State) : Outcome := aluEI .sub s.vWidth e (immSignExtended s.vWidth ib) s

/-- XOR Eb,Gb: 0x30 (R216). -/
def execXorEbGb (e : EOperand) (g : RegNum) (s : State) : Outcome := aluEG .xor .w8 e g s

/-- XOR Ev,Gv: 0x31 (R216). -/
def execXorEvGv (e : EOperand) (g : RegNum) (s : State) : Outcome := aluEG .xor s.vWidth e g s

/-- XOR Gb,Eb: 0x32 (R216). -/
def execXorGbEb (g : RegNum) (e : EOperand) (s : State) : Outcome := aluGE .xor .w8 g e s

/-- XOR Gv,Ev: 0x33 (R216). -/
def execXorGvEv (g : RegNum) (e : EOperand) (s : State) : Outcome := aluGE .xor s.vWidth g e s

/-- XOR AL,Ib: 0x34 (R216). -/
def execXorAlIb (ib : Byte) (s : State) : Outcome := aluEI .xor .w8 (.reg .r0) ib s

/-- XOR eAX,Iv: 0x35 (R216). -/
def execXorEaxIv (iv : ImmV) (s : State) : Outcome := aluEI .xor s.vWidth (.reg .r0) (immValue s.vWidth iv) s

/-- XOR Eb,Ib: 0x80 /6 (R216). -/
def execXorEbIb (e : EOperand) (ib : Byte) (s : State) : Outcome := aluEI .xor .w8 e ib s

/-- XOR Ev,Iv: 0x81 /6 (R216). -/
def execXorEvIv (e : EOperand) (iv : ImmV) (s : State) : Outcome := aluEI .xor s.vWidth e (immValue s.vWidth iv) s

/-- XOR Ev,Ibs: 0x83 /6 (R216). -/
def execXorEvIbs (e : EOperand) (ib : Byte) (s : State) : Outcome := aluEI .xor s.vWidth e (immSignExtended s.vWidth ib) s

/-- CMP Eb,Gb: 0x38 (R217). -/
def execCmpEbGb (e : EOperand) (g : RegNum) (s : State) : Outcome := aluEG .cmp .w8 e g s

/-- CMP Ev,Gv: 0x39 (R217). -/
def execCmpEvGv (e : EOperand) (g : RegNum) (s : State) : Outcome := aluEG .cmp s.vWidth e g s

/-- CMP Gb,Eb: 0x3A (R217). -/
def execCmpGbEb (g : RegNum) (e : EOperand) (s : State) : Outcome := aluGE .cmp .w8 g e s

/-- CMP Gv,Ev: 0x3B (R217). -/
def execCmpGvEv (g : RegNum) (e : EOperand) (s : State) : Outcome := aluGE .cmp s.vWidth g e s

/-- CMP AL,Ib: 0x3C (R217). -/
def execCmpAlIb (ib : Byte) (s : State) : Outcome := aluEI .cmp .w8 (.reg .r0) ib s

/-- CMP eAX,Iv: 0x3D (R217). -/
def execCmpEaxIv (iv : ImmV) (s : State) : Outcome := aluEI .cmp s.vWidth (.reg .r0) (immValue s.vWidth iv) s

/-- CMP Eb,Ib: 0x80 /7 (R217). -/
def execCmpEbIb (e : EOperand) (ib : Byte) (s : State) : Outcome := aluEI .cmp .w8 e ib s

/-- CMP Ev,Iv: 0x81 /7 (R217). -/
def execCmpEvIv (e : EOperand) (iv : ImmV) (s : State) : Outcome := aluEI .cmp s.vWidth e (immValue s.vWidth iv) s

/-- CMP Ev,Ibs: 0x83 /7 (R217). -/
def execCmpEvIbs (e : EOperand) (ib : Byte) (s : State) : Outcome := aluEI .cmp s.vWidth e (immSignExtended s.vWidth ib) s

/-- INC r: 0x40+r (R220). -/
def execIncR (r : RegNum) (s : State) : Outcome := incE s.vWidth (.reg r) s

/-- DEC r: 0x48+r (R221). -/
def execDecR (r : RegNum) (s : State) : Outcome := decE s.vWidth (.reg r) s

/-- TEST Eb,Gb: 0x84 (R218). -/
def execTestEbGb (e : EOperand) (g : RegNum) (s : State) : Outcome := testE .w8 e (s.readReg .w8 g) s

/-- TEST Ev,Gv: 0x85 (R218). -/
def execTestEvGv (e : EOperand) (g : RegNum) (s : State) : Outcome := testE s.vWidth e (s.readReg s.vWidth g) s

/-- TEST AL,Ib: 0xA8 (R218). -/
def execTestAlIb (ib : Byte) (s : State) : Outcome := testE .w8 (.reg .r0) ib s

/-- TEST eAX,Iv: 0xA9 (R218). -/
def execTestEaxIv (iv : ImmV) (s : State) : Outcome := testE s.vWidth (.reg .r0) (immValue s.vWidth iv) s

/-- TEST Eb,Ib: 0xF6 /0 (R218). -/
def execTestEbIb (e : EOperand) (ib : Byte) (s : State) : Outcome := testE .w8 e ib s

/-- TEST Ev,Iv: 0xF7 /0 (R218). -/
def execTestEvIv (e : EOperand) (iv : ImmV) (s : State) : Outcome := testE s.vWidth e (immValue s.vWidth iv) s

/-- NOT Eb: 0xF6 /2 (R223). -/
def execNotEb (e : EOperand) (s : State) : Outcome := notE .w8 e s

/-- NOT Ev: 0xF7 /2 (R223). -/
def execNotEv (e : EOperand) (s : State) : Outcome := notE s.vWidth e s

/-- NEG Eb: 0xF6 /3 (R222). -/
def execNegEb (e : EOperand) (s : State) : Outcome := negE .w8 e s

/-- NEG Ev: 0xF7 /3 (R222). -/
def execNegEv (e : EOperand) (s : State) : Outcome := negE s.vWidth e s

/-- MUL Eb: 0xF6 /4 (R230). -/
def execMulEb (e : EOperand) (s : State) : Outcome := mulE .w8 e s

/-- MUL Ev: 0xF7 /4 (R230). -/
def execMulEv (e : EOperand) (s : State) : Outcome := mulE s.vWidth e s

/-- IMUL Eb: 0xF6 /5 (R231). -/
def execImulEb (e : EOperand) (s : State) : Outcome := imulE .w8 e s

/-- IMUL Ev: 0xF7 /5 (R231). -/
def execImulEv (e : EOperand) (s : State) : Outcome := imulE s.vWidth e s

/-- DIV Eb: 0xF6 /6 (R232). -/
def execDivEb (e : EOperand) (s : State) : Outcome := divE .w8 e s

/-- DIV Ev: 0xF7 /6 (R232). -/
def execDivEv (e : EOperand) (s : State) : Outcome := divE s.vWidth e s

/-- IDIV Eb: 0xF6 /7 (R233). -/
def execIdivEb (e : EOperand) (s : State) : Outcome := idivE .w8 e s

/-- IDIV Ev: 0xF7 /7 (R233). -/
def execIdivEv (e : EOperand) (s : State) : Outcome := idivE s.vWidth e s

/-- INC Eb: 0xFE /0 (R220). -/
def execIncEb (e : EOperand) (s : State) : Outcome := incE .w8 e s

/-- DEC Eb: 0xFE /1 (R221). -/
def execDecEb (e : EOperand) (s : State) : Outcome := decE .w8 e s

/-- INC Ev: 0xFF /0 (R220). -/
def execIncEv (e : EOperand) (s : State) : Outcome := incE s.vWidth e s

/-- DEC Ev: 0xFF /1 (R221). -/
def execDecEv (e : EOperand) (s : State) : Outcome := decE s.vWidth e s

end Sys2Proof.Machine
end

