-- ==== Sys2Proof/Machine/ControlTransfer.lean ====
section
/-! DEFINITION. Control transfer: jumps, calls, returns, software interrupts and the return from interrupt (R330 to R381). When an instruction executes, `ip` holds `ip_next` (R28). -/

namespace Sys2Proof.Machine

/-- A conditional jump: taken, `ip` becomes the target, else it stays `ip_next` (R381). -/
def jumpIf (taken : Bool) (rel : Byte) (s : State) : State := if taken then s.setIp (s.relTarget8 rel) else s

/-- LOOP, LOOPE, LOOPNE: decrement CX, jump while it is not zero and the condition holds (R351 to R353). -/
def loopWhile (cond : Bool) (rel : Byte) (s : State) : State :=
  let cx := s.readReg .w16 .r1 - 1
  jumpIf (cx != 0 && cond) rel (s.writeReg .w16 .r1 cx)

/-- A near jump to a target that was read (R332). -/
def jumpNear (target : Eff (BitVec Width.w16.bits)) (s : State) : Eff State :=
  target.bind fun t =>
  .ok (s.setIp t) []

/-- A far jump to a pointer (offset, selector) that was read (R359). -/
def jumpFar (target : Eff (Half × Half)) (s : State) : Eff State :=
  target.bind fun t =>
  .ok (s.setCsIp t.2 t.1) []

/-- A near call: the target is read before the push (R355, R356). -/
def callNear (target : Eff (BitVec Width.w16.bits)) (s : State) : Eff State :=
  target.bind fun t =>
  (s.push .w16 s.ip).bind fun s' =>
  .ok (s'.setIp t) []

/-- A far call: the pointer is read first, then CS and the return offset are pushed (R357, R358). -/
def callFar (target : Eff (Half × Half)) (s : State) : Eff State :=
  target.bind fun t =>
  (s.push .w16 (s.sreg .cs)).bind fun s1 =>
  (s1.push .w16 s.ip).bind fun s2 =>
  .ok (s2.setCsIp t.2 t.1) []

/-- A near return that releases `n` bytes of stack (R360, R361). -/
def retNear (n : Half) (s : State) : Eff State :=
  (s.pop .w16).bind fun vs =>
  .ok ((vs.2.setIp vs.1).setSp (vs.2.sp + n)) []

/-- A far return that releases `n` bytes of stack (R362, R363). -/
def retFar (n : Half) (s : State) : Eff State :=
  (s.pop .w16).bind fun vs =>
  (vs.2.pop .w16).bind fun us =>
  .ok ((us.2.setCsIp us.1 vs.1).setSp (us.2.sp + n)) []

/-- JO Jb: 0x70 (R334). -/
def execJo (rel : Byte) (s : State) : Outcome := .next (jumpIf (Cond.holds s.flags .o) rel s)

/-- JNO Jb: 0x71 (R335). -/
def execJno (rel : Byte) (s : State) : Outcome := .next (jumpIf (Cond.holds s.flags .no) rel s)

/-- JB Jb: 0x72 (R336). -/
def execJb (rel : Byte) (s : State) : Outcome := .next (jumpIf (Cond.holds s.flags .b) rel s)

/-- JAE Jb: 0x73 (R337). -/
def execJae (rel : Byte) (s : State) : Outcome := .next (jumpIf (Cond.holds s.flags .ae) rel s)

/-- JE Jb: 0x74 (R338). -/
def execJe (rel : Byte) (s : State) : Outcome := .next (jumpIf (Cond.holds s.flags .e) rel s)

/-- JNE Jb: 0x75 (R339). -/
def execJne (rel : Byte) (s : State) : Outcome := .next (jumpIf (Cond.holds s.flags .ne) rel s)

/-- JBE Jb: 0x76 (R340). -/
def execJbe (rel : Byte) (s : State) : Outcome := .next (jumpIf (Cond.holds s.flags .be) rel s)

/-- JA Jb: 0x77 (R341). -/
def execJa (rel : Byte) (s : State) : Outcome := .next (jumpIf (Cond.holds s.flags .a) rel s)

/-- JS Jb: 0x78 (R342). -/
def execJs (rel : Byte) (s : State) : Outcome := .next (jumpIf (Cond.holds s.flags .s) rel s)

/-- JNS Jb: 0x79 (R343). -/
def execJns (rel : Byte) (s : State) : Outcome := .next (jumpIf (Cond.holds s.flags .ns) rel s)

/-- JP Jb: 0x7A (R344). -/
def execJp (rel : Byte) (s : State) : Outcome := .next (jumpIf (Cond.holds s.flags .p) rel s)

/-- JNP Jb: 0x7B (R345). -/
def execJnp (rel : Byte) (s : State) : Outcome := .next (jumpIf (Cond.holds s.flags .np) rel s)

/-- JL Jb: 0x7C (R346). -/
def execJl (rel : Byte) (s : State) : Outcome := .next (jumpIf (Cond.holds s.flags .l) rel s)

/-- JGE Jb: 0x7D (R347). -/
def execJge (rel : Byte) (s : State) : Outcome := .next (jumpIf (Cond.holds s.flags .ge) rel s)

/-- JLE Jb: 0x7E (R348). -/
def execJle (rel : Byte) (s : State) : Outcome := .next (jumpIf (Cond.holds s.flags .le) rel s)

/-- JG Jb: 0x7F (R349). -/
def execJg (rel : Byte) (s : State) : Outcome := .next (jumpIf (Cond.holds s.flags .g) rel s)

/-- CALL Ap: 0x9A (R358). -/
def execCallAp (off : Half) (sel : Half) (s : State) : Outcome := ofEff (callFar (.ok (off, sel) []) s)

/-- RET Iw: 0xC2 (R361). -/
def execRetIw (iw : Half) (s : State) : Outcome := ofEff (retNear iw s)

/-- RET: 0xC3 (R360). -/
def execRet (s : State) : Outcome := ofEff (retNear 0 s)

/-- RETF Iw: 0xCA (R363). -/
def execRetfIw (iw : Half) (s : State) : Outcome := ofEff (retFar iw s)

/-- RETF: 0xCB (R362). -/
def execRetf (s : State) : Outcome := ofEff (retFar 0 s)

/-- INT3: 0xCC (R370). -/
def execInt3 (s : State) : Outcome := ofEff (s.interrupt 3 s.ip)

/-- INT Ib: 0xCD (R371). -/
def execIntIb (ib : Byte) (s : State) : Outcome := ofEff (s.interrupt ib s.ip)

/-- INTO: 0xCE (R372). -/
def execInto (s : State) : Outcome := if s.flags.ofl then ofEff (s.interrupt 4 s.ip) else .next s

/-- IRET: 0xCF (R373). -/
def execIret (s : State) : Outcome := ofEff s.interruptReturn

/-- LOOPNE Jb: 0xE0 (R353). -/
def execLoopne (rel : Byte) (s : State) : Outcome := .next (loopWhile (!s.flags.zf) rel s)

/-- LOOPE Jb: 0xE1 (R352). -/
def execLoope (rel : Byte) (s : State) : Outcome := .next (loopWhile s.flags.zf rel s)

/-- LOOP Jb: 0xE2 (R351). -/
def execLoop (rel : Byte) (s : State) : Outcome := .next (loopWhile true rel s)

/-- JCXZ Jb: 0xE3 (R350). -/
def execJcxz (rel : Byte) (s : State) : Outcome := .next (jumpIf (s.readReg .w16 .r1 == 0) rel s)

/-- CALL Jv: 0xE8 (R355). -/
def execCallJv (rel : Half) (s : State) : Outcome := ofEff (callNear (.ok (s.relTarget rel) []) s)

/-- JMP Jv: 0xE9 (R331). -/
def execJmpJv (rel : Half) (s : State) : Outcome := .next (s.setIp (s.relTarget rel))

/-- JMP Ap: 0xEA (R333). -/
def execJmpAp (off : Half) (sel : Half) (s : State) : Outcome := .next (s.setCsIp sel off)

/-- JMP Jb: 0xEB (R330). -/
def execJmpJb (rel : Byte) (s : State) : Outcome := .next (s.setIp (s.relTarget8 rel))

/-- CALL Ev: 0xFF /2 (R356). -/
def execCallEv (e : EOperand) (s : State) : Outcome := ofEff (callNear (s.readE .w16 e) s)

/-- CALL Mp: 0xFF /3 (R357). -/
def execCallMp (m : MemOperand) (s : State) : Outcome := ofEff (callFar (s.readFarPointer m) s)

/-- JMP Ev: 0xFF /4 (R332). -/
def execJmpEv (e : EOperand) (s : State) : Outcome := ofEff (jumpNear (s.readE .w16 e) s)

/-- JMP Mp: 0xFF /5 (R359). -/
def execJmpMp (m : MemOperand) (s : State) : Outcome := ofEff (jumpFar (s.readFarPointer m) s)

end Sys2Proof.Machine
end

