-- ==== Sys2Proof/Machine/DataMovement.lean ====
section
/-! DEFINITION. Data movement: MOV, XCHG, LEA, XLAT, CBW, CWD, LAHF, SAHF, NOP (R150 to R168). -/

namespace Sys2Proof.Machine

/-- Put a value that was read into a register. -/
def loadReg (w : Width) (i : RegNum) (v : Eff (BitVec w.bits)) (s : State) : Eff State :=
  v.bind fun x =>
  .ok (s.writeReg w i x) []

/-- Put a value that was read into a segment register: the next access uses it (R26, R157). -/
def loadSreg (i : SReg) (v : Eff (BitVec Width.w16.bits)) (s : State) : Eff State :=
  v.bind fun x =>
  .ok (s.setSreg i x) []

/-- XCHG of an E and a G operand: both read, then E written, then G (R160). -/
def xchgEG (w : Width) (e : EOperand) (g : RegNum) (s : State) : Eff State :=
  (s.readE w e).bind fun a =>
  (s.writeE w e (s.readReg w g)).bind fun s' =>
  .ok (s'.writeReg w g a) []

/-- XCHG of the accumulator and a register (R161). -/
def xchgAcc (i : RegNum) (s : State) : State :=
  (s.writeReg s.vWidth .r0 (s.readReg s.vWidth i)).writeReg s.vWidth i (s.readReg s.vWidth .r0)

/-- The table offset of XLAT: BX + AL modulo 2^16 (R163). -/
def State.xlatOffset (s : State) : Half := s.readReg .w16 .r3 + (s.readReg .w8 .r0).setWidth 16

/-- CBW: AX from AL; CWDE under the operand-size latch: EAX from AX (R164). -/
def signExtendAcc (s : State) : State :=
  if s.opsizePfx then s.writeReg .w32 .r0 ((s.readReg .w16 .r0).signExtend 32)
  else s.writeReg .w16 .r0 ((s.readReg .w8 .r0).signExtend 16)

/-- CWD: DX from the sign of AX; CDQ under the operand-size latch: EDX from the sign of EAX (R165). -/
def signFillHigh (s : State) : State :=
  s.writeReg s.vWidth .r2 (if (s.readReg s.vWidth .r0).msb then BitVec.allOnes s.vWidth.bits else 0)

/-- SAHF: CF, PF, AF, ZF and SF from a byte; OF and IF as they were (R167). -/
def flagsFromByte (v : Byte) (f : Flags) : Flags :=
  { f with cf := v.getLsbD 0, pf := v.getLsbD 2, af := v.getLsbD 4, zf := v.getLsbD 6, sf := v.getLsbD 7 }

/-- XCHG Eb,Gb: 0x86 (R160). -/
def execXchgEbGb (e : EOperand) (g : RegNum) (s : State) : Outcome := ofEff (xchgEG .w8 e g s)

/-- XCHG Ev,Gv: 0x87 (R160). -/
def execXchgEvGv (e : EOperand) (g : RegNum) (s : State) : Outcome := ofEff (xchgEG s.vWidth e g s)

/-- MOV Eb,Gb: 0x88 (R150). -/
def execMovEbGb (e : EOperand) (g : RegNum) (s : State) : Outcome := ofEff (s.writeE .w8 e (s.readReg .w8 g))

/-- MOV Ev,Gv: 0x89 (R150). -/
def execMovEvGv (e : EOperand) (g : RegNum) (s : State) : Outcome := ofEff (s.writeE s.vWidth e (s.readReg s.vWidth g))

/-- MOV Gb,Eb: 0x8A (R151). -/
def execMovGbEb (g : RegNum) (e : EOperand) (s : State) : Outcome := ofEff (loadReg .w8 g (s.readE .w8 e) s)

/-- MOV Gv,Ev: 0x8B (R151). -/
def execMovGvEv (g : RegNum) (e : EOperand) (s : State) : Outcome := ofEff (loadReg s.vWidth g (s.readE s.vWidth e) s)

/-- MOV Ew,Sw: 0x8C (R156). -/
def execMovEwSw (e : EOperand) (sr : SReg) (s : State) : Outcome := ofEff (s.writeE .w16 e (s.sreg sr))

/-- MOV ES,Ew: 0x8E /0 (R157). -/
def execMovEsEw (e : EOperand) (s : State) : Outcome := ofEff (loadSreg .es (s.readE .w16 e) s)

/-- MOV SS,Ew: 0x8E /2 (R157). -/
def execMovSsEw (e : EOperand) (s : State) : Outcome := ofEff (loadSreg .ss (s.readE .w16 e) s)

/-- MOV DS,Ew: 0x8E /3 (R157). -/
def execMovDsEw (e : EOperand) (s : State) : Outcome := ofEff (loadSreg .ds (s.readE .w16 e) s)

/-- LEA Gv,M: 0x8D (R162). -/
def execLeaGvM (g : RegNum) (m : MemOperand) (s : State) : Outcome := .next (s.writeReg s.vWidth g ((s.eaOff m).setWidth s.vWidth.bits))

/-- NOP: 0x90 (R168). -/
def execNop (s : State) : Outcome := .next s

/-- XCHG eAX,eCX: 0x91 (R161). -/
def execXchgEaxEcx (s : State) : Outcome := .next (xchgAcc .r1 s)

/-- XCHG eAX,eDX: 0x92 (R161). -/
def execXchgEaxEdx (s : State) : Outcome := .next (xchgAcc .r2 s)

/-- XCHG eAX,eBX: 0x93 (R161). -/
def execXchgEaxEbx (s : State) : Outcome := .next (xchgAcc .r3 s)

/-- XCHG eAX,eSP: 0x94 (R161). -/
def execXchgEaxEsp (s : State) : Outcome := .next (xchgAcc .r4 s)

/-- XCHG eAX,eBP: 0x95 (R161). -/
def execXchgEaxEbp (s : State) : Outcome := .next (xchgAcc .r5 s)

/-- XCHG eAX,eSI: 0x96 (R161). -/
def execXchgEaxEsi (s : State) : Outcome := .next (xchgAcc .r6 s)

/-- XCHG eAX,eDI: 0x97 (R161). -/
def execXchgEaxEdi (s : State) : Outcome := .next (xchgAcc .r7 s)

/-- CBW: 0x98 (R164). -/
def execCbw (s : State) : Outcome := .next (signExtendAcc s)

/-- CWD: 0x99 (R165). -/
def execCwd (s : State) : Outcome := .next (signFillHigh s)

/-- SAHF: 0x9E (R167). -/
def execSahf (s : State) : Outcome := .next (s.setFlags (flagsFromByte (s.readReg .w8 .r4) s.flags))

/-- LAHF: 0x9F (R166). -/
def execLahf (s : State) : Outcome := .next (s.writeReg .w8 .r4 ((flagsImage s.flags).extractLsb' 0 8))

/-- MOV AL,Ob: 0xA0 (R154). -/
def execMovAlOb (off : Half) (s : State) : Outcome := ofEff (loadReg .w8 .r0 (s.readSeg .w8 (s.dataSeg .ds) off) s)

/-- MOV eAX,Ov: 0xA1 (R154). -/
def execMovEaxOv (off : Half) (s : State) : Outcome := ofEff (loadReg s.vWidth .r0 (s.readSeg s.vWidth (s.dataSeg .ds) off) s)

/-- MOV Ob,AL: 0xA2 (R155). -/
def execMovObAl (off : Half) (s : State) : Outcome := ofEff (s.writeSeg .w8 (s.dataSeg .ds) off (s.readReg .w8 .r0))

/-- MOV Ov,eAX: 0xA3 (R155). -/
def execMovOvEax (off : Half) (s : State) : Outcome := ofEff (s.writeSeg s.vWidth (s.dataSeg .ds) off (s.readReg s.vWidth .r0))

/-- MOV r8,Ib: 0xB0+r (R152). -/
def execMovR8Ib (r : RegNum) (ib : Byte) (s : State) : Outcome := .next (s.writeReg .w8 r ib)

/-- MOV r,Iv: 0xB8+r (R152). -/
def execMovRIv (r : RegNum) (iv : ImmV) (s : State) : Outcome := .next (s.writeReg s.vWidth r (immValue s.vWidth iv))

/-- MOV Eb,Ib: 0xC6 /0 (R153). -/
def execMovEbIb (e : EOperand) (ib : Byte) (s : State) : Outcome := ofEff (s.writeE .w8 e ib)

/-- MOV Ev,Iv: 0xC7 /0 (R153). -/
def execMovEvIv (e : EOperand) (iv : ImmV) (s : State) : Outcome := ofEff (s.writeE s.vWidth e (immValue s.vWidth iv))

/-- XLAT: 0xD7 (R163). -/
def execXlat (s : State) : Outcome := ofEff (loadReg .w8 .r0 (s.readSeg .w8 (s.dataSeg .ds) (s.xlatOffset)) s)

end Sys2Proof.Machine
end

