-- ==== Sys2Proof/Machine/FlagSystem.lean ====
section
/-! DEFINITION. Flag control and HLT (R450 to R457). -/

namespace Sys2Proof.Machine

/-- HLT: 0xF4 (R457). -/
def execHlt (s : State) : Outcome := .next { s with halted := true }

/-- CMC: 0xF5 (R452). -/
def execCmc (s : State) : Outcome := .next (s.setFlags { s.flags with cf := !s.flags.cf })

/-- CLC: 0xF8 (R450). -/
def execClc (s : State) : Outcome := .next (s.setFlags { s.flags with cf := false })

/-- STC: 0xF9 (R451). -/
def execStc (s : State) : Outcome := .next (s.setFlags { s.flags with cf := true })

/-- CLI: 0xFA (R453). -/
def execCli (s : State) : Outcome := .next (s.setFlags { s.flags with ifl := false })

/-- STI: 0xFB (R454). -/
def execSti (s : State) : Outcome := .next (s.setFlags { s.flags with ifl := true })

end Sys2Proof.Machine
end

