-- ==== Sys2Proof/Machine/Controller.lean ====
section
/-! DEFINITION. The interrupt-line dispatcher: line allocation, raise, clear, the pending check, the vector of a
line (R530 to R538). -/

namespace Sys2Proof.Machine

/-- Does a device hold line `n`. -/
def State.lineHeld (s : State) (n : Nat) : Bool := s.lineOf.any fun c => c.2 == n

/-- The lines no device holds, lowest first (R531). -/
def State.freeLines (s : State) : List Nat := (List.range s.params.nlines).filter fun n => !s.lineHeld n

/-- `ALLOC_LINE` among the free lines: the first of the device's preferred lines that is free, else the
lowest-numbered one (R531; log 20). -/
def allocLine (prefs free : List Nat) : Option Nat :=
  match prefs.find? fun n => free.contains n with
  | some n => some n
  | none => free.head?

/-- `requestLine(d)`: a device that holds a line gets it again; when no line is free it gets none, with a
diagnostic (R531, R537). -/
def State.requestLine (s : State) (d : DeviceId) (prefs : List Nat) : State × Option Nat :=
  match Assoc.find d s.lineOf with
  | some n => (s, some n)
  | none =>
    match allocLine prefs s.freeLines with
    | some n => ({ s with lineOf := Assoc.put d n s.lineOf }, some n)
    | none => ({ s with busLog := .noLine d :: s.busLog }, none)

/-- `raise(n)`: no effect when no device holds the line (R532). -/
def State.raiseLine (s : State) (n : Nat) : State :=
  if s.lineHeld n then { s with pending := Rising.put n s.pending } else s

/-- `clear(n)` (R533). -/
def State.clearLine (s : State) (n : Nat) : State := { s with pending := Rising.erase n s.pending }

/-- A device raises its own line; a device with no line has none to raise (R532, R537). -/
def State.raiseOwn (s : State) (d : DeviceId) : State :=
  match Assoc.find d s.lineOf with
  | some n => s.raiseLine n
  | none => s

/-- A device clears its own line (R533). -/
def State.clearOwn (s : State) (d : DeviceId) : State :=
  match Assoc.find d s.lineOf with
  | some n => s.clearLine n
  | none => s

/-- The default of `VECTOR_OF_LINE`: 0x08 + n for n in 0 to 7, 0x70 + (n - 8) from 8 on (R5, R535). -/
def defaultVector (n : Nat) : Byte := if n < 8 then BitVec.ofNat 8 (0x08 + n) else BitVec.ofNat 8 (0x70 + (n - 8))

/-- `VECTOR_OF_LINE(n)` (R535; log 23). -/
def State.vectorOfLine (s : State) (n : Nat) : Byte := (Assoc.find n s.params.vectorTable).getD (defaultVector n)

/-- The line the boundary check takes: none with IF = 0; else the lowest-numbered pending line (R500, R501,
R534). -/
def State.deliverable (s : State) : Option Nat := if s.flags.ifl then s.pending.min? else none

end Sys2Proof.Machine
end

