-- ==== Sys2Proof/Machine/Disk.lean ====
section
/-! DEFINITION. The reference device: the disk channel as far as the spec states it (R550 to R559). Its register
map and its command set are in no source (R3); what a port access means to it is named by its answer (log 19). -/

namespace Sys2Proof.Machine

/-- The status fields of a drive after `reset()`: busy, error and data-request 0, drive-ready and seek-complete 1;
the other fields as they were (R556). -/
def resetStatus (st : DriveStatus) : DriveStatus :=
  { st with busy := false, error := false, dataRequest := false, driveReady := true, seekComplete := true }

/-- Is a slot not None (R559). -/
def Drive.present (d : Drive) : Bool := d.kind != .none

/-- `reset()` of one slot: only present drives are re-initialised (R556). -/
def Drive.reset (d : Drive) : Drive :=
  if d.present then { d with state := .idle, status := resetStatus d.status } else d

/-- A slot as construction makes it, before the reset pass: every status field 0. The spec gives no value:
DESIGN CHOICE 0, log 18 (unsafe). -/
def Drive.construct (k : DriveKind) : Drive where
  kind := k
  state := .notPresent
  status := ⟨false, false, false, false, false, false, false, 0, false⟩

/-- The channel as construction makes it. -/
def DiskChannel.construct (k0 k1 : DriveKind) : DiskChannel := ⟨Drive.construct k0, Drive.construct k1, false⟩

/-- The device-internal part of `disk.reset()`: every present drive re-initialised, the primary slot selected
(R556, R557). -/
def DiskChannel.reset (c : DiskChannel) : DiskChannel := ⟨c.slot0.reset, c.slot1.reset, false⟩

/-- `isAnyDrivePresent()` (R559). -/
def DiskChannel.isAnyDrivePresent (c : DiskChannel) : Bool := c.slot0.present || c.slot1.present

/-- The drive at the selected index (R550, R557). -/
def DiskChannel.selected (c : DiskChannel) : Drive := if c.slaveSelected then c.slot1 else c.slot0

/-- `isSelectedDrivePresent()` (R559). -/
def DiskChannel.isSelectedDrivePresent (c : DiskChannel) : Bool := c.selected.present

/-- The status fields the ports show: those of the selected drive (R550, R557). -/
def DiskChannel.visibleStatus (c : DiskChannel) : DriveStatus := c.selected.status

/-- Replace the selected drive. -/
def DiskChannel.setSelected (c : DiskChannel) (d : Drive) : DiskChannel :=
  if c.slaveSelected then { c with slot1 := d } else { c with slot0 := d }

/-- A drive returns to Idle with nothing left to transfer (R552, R553). -/
def Drive.toIdle (d : Drive) : Drive :=
  { d with state := .idle, status := { d.status with busy := false, dataRequest := false, error := false } }

/-- A drive enters DataTransfer with `n` bytes to come: data-request 1, busy 0; with none to come it is Idle
(R552, R553). -/
def Drive.toTransfer (d : Drive) (n : Nat) : Drive :=
  if n = 0 then d.toIdle
  else { d with state := .dataTransfer n, status := { d.status with busy := false, dataRequest := true } }

/-- The transitions of one drive (R553, R554, R555). `bytes` is the width of the port access that the event belongs
to. A transition the spec does not give leaves the drive as it is: DESIGN CHOICE, log 18. -/
def Drive.event (d : Drive) (bytes : Nat) : DiskEvent → Drive
  | .select _ => d
  | .command =>
    match d.state with
    | .idle => { d with state := .busy, status := { d.status with busy := true } }
    | _ => d
  | .dataReady n =>
    match d.state with
    | .busy => d.toTransfer n
    | _ => d
  | .transfer =>
    match d.state with
    | .dataTransfer n => d.toTransfer (n - bytes)
    | _ => d
  | .fault => { d with state := .error, status := { d.status with error := true } }
  | .acknowledge =>
    match d.state with
    | .error => d.toIdle
    | _ => d

/-- The events of the channel: selecting changes only the selected index (R557); an operation on a slot with no
drive changes no drive state (R558); else the selected drive makes its transition. -/
def DiskChannel.event (c : DiskChannel) (bytes : Nat) (ev : DiskEvent) : DiskChannel :=
  match ev with
  | .select slave => { c with slaveSelected := slave }
  | ev => if c.isSelectedDrivePresent then c.setSelected (c.selected.event bytes ev) else c

/-- Is the event an operation on a slot with no drive, an InvariantViolation (R558)? -/
def DiskChannel.violates (c : DiskChannel) : DiskEvent → Bool
  | .select _ => false
  | _ => !c.isSelectedDrivePresent

end Sys2Proof.Machine
end

