-- ==== Sys2Proof/Machine/Bus.lean ====
section
/-! DEFINITION. The system bus: the port map (R420, R421), port accesses and their routing (R410 to R417), the
device capability contract (R412, R422, R426). -/

namespace Sys2Proof.Machine

/-- The owner of a port, if any (R37, R420). -/
def State.ownerOf (s : State) (p : Half) : Option DeviceId := Assoc.find p.toNat s.owner

/-- `register(p, d)`: last writer wins, no diagnostic (R421). -/
def State.registerPort (s : State) (d : DeviceId) (p : Half) : State :=
  { s with owner := Assoc.put p.toNat d s.owner }

/-- `unregister(p)` (R421). -/
def State.unregisterPort (s : State) (p : Half) : State := { s with owner := Assoc.erase p.toNat s.owner }

/-- The all-bits-set sentinel of an access of `n` bytes (R413). -/
def sentinel (n : Nat) : Word := BitVec.ofNat 32 (2 ^ (8 * n) - 1)

/-- A value reduced to the width of an access of `n` bytes (R410). -/
def truncBytes (n : Nat) (v : Word) : Word := v &&& sentinel n

/-- Put a record into the output log (R415). -/
def State.log (s : State) (ev : BusEvent) : State := { s with busLog := ev :: s.busLog }

/-- The disk channel of device `d` makes a transition; an operation on an empty slot is logged (R553 to R558). -/
def State.diskEvent (s : State) (d : DeviceId) (bytes : Nat) (ev : DiskEvent) : State :=
  match Assoc.find d s.devices with
  | some (.disk c) =>
    let s' := { s with devices := Assoc.put d (.disk (c.event bytes ev)) s.devices }
    if c.violates ev then s'.log (.notPresent d) else s'
  | some (.stub _) => s
  | none => s

/-- One action of device `d`, inside a port access of `bytes` bytes or in `update()` (R36, R412, R503). -/
def State.deviceAction (s : State) (d : DeviceId) (bytes : Nat) : DeviceAction → State
  | .raise => s.raiseOwn d
  | .clear => s.clearOwn d
  | .gate b => { s with a20 := b }
  | .disk ev => s.diskEvent d bytes ev

/-- The actions of a device, in order. -/
def State.deviceActions (s : State) (d : DeviceId) (bytes : Nat) (as : List DeviceAction) : State :=
  as.foldl (fun t a => t.deviceAction d bytes a) s

/-- The answer of the next device handler call: the head of the input queue; when the queue is empty, a fresh free
value and no action (U11; log 7). -/
def State.nextReply (s : State) : State × DeviceReply :=
  match s.replies with
  | r :: rs => ({ s with replies := rs }, r)
  | [] => ({ s with portCalls := s.portCalls + 1 }, .answer (Config.deviceAnswer s.portCalls) [])

/-- The configuration of a device. -/
def State.deviceSpec (s : State) (d : DeviceId) : Option DeviceSpec := s.params.devices.find? fun x => x.id == d

/-- Is `p` a data port of the configuration-mechanism stub `d` before any address write (R426)? -/
def State.stubUnaddressed (s : State) (d : DeviceId) (p : Half) : Bool :=
  match s.deviceSpec d, Assoc.find d s.devices with
  | some ⟨_, .configStub _ dataPorts _, _⟩, some (.stub false) => dataPorts.contains p
  | _, _ => false

/-- A write to an address port of the configuration-mechanism stub, implemented by it, is remembered (R426; log 25). -/
def State.noteAddressWrite (s : State) (d : DeviceId) (p : Half) : State :=
  match s.deviceSpec d, Assoc.find d s.devices with
  | some ⟨_, .configStub addressPorts _ _, _⟩, some (.stub _) =>
    if addressPorts.contains p then { s with devices := Assoc.put d (.stub true) s.devices } else s
  | _, _ => s

/-- The read handler of device `d` for `n` bytes at port `p` (R410, R412, R416, R426). -/
def State.deviceRead (s : State) (d : DeviceId) (p : Half) (n : Nat) : State × Word :=
  let s1 := s.log (.deviceRead d p n)
  if s1.stubUnaddressed d p then (s1, sentinel n)
  else
    match s1.nextReply with
    | (s2, .answer v as) => (s2.deviceActions d n as, truncBytes n v)
    | (s2, .unimplemented) => (s2.log (.portAccessFault d p n), sentinel n)

/-- The write handler of device `d` for `n` bytes at port `p`; a write the device does not implement leaves its state
unchanged (R411, R412, R416, R422). -/
def State.deviceWrite (s : State) (d : DeviceId) (p : Half) (n : Nat) (v : Word) : State :=
  match (s.log (.deviceWrite d p n v)).nextReply with
  | (s2, .answer _ as) => (s2.noteAddressWrite d p).deviceActions d n as
  | (s2, .unimplemented) => s2.log (.portAccessFault d p n)

/-- `PortRead(p, n)`: routed by the starting port number alone; an unmapped port gives the sentinel and a diagnostic
(R410, R413, R417). -/
def State.portRead (s : State) (p : Half) (n : Nat) : State × Word :=
  match s.ownerOf p with
  | none => (s.log (.unmappedRead p n), sentinel n)
  | some d => s.deviceRead d p n

/-- `PortWrite(p, n, v)`: routed by the starting port number alone; a write to an unmapped port changes nothing but
the diagnostics (R411, R414, R417). -/
def State.portWrite (s : State) (p : Half) (n : Nat) (v : Word) : State :=
  match s.ownerOf p with
  | none => s.log (.unmappedWrite p n v)
  | some d => s.deviceWrite d p n v

end Sys2Proof.Machine
end

