-- ==== Sys2Proof/Machine/PortIo.lean ====
section
/-! DEFINITION. Port input and output: IN and OUT (R400 to R403). -/

namespace Sys2Proof.Machine

/-- IN: read the port, then write the accumulator (R400, R401). -/
def portIn (w : Width) (p : Half) (s : State) : State :=
  let sv := s.portRead p w.bytes
  sv.1.writeReg w .r0 (sv.2.setWidth w.bits)

/-- OUT: write the accumulator to the port (R402, R403). -/
def portOut (w : Width) (p : Half) (s : State) : State :=
  s.portWrite p w.bytes ((s.readReg w .r0).setWidth 32)

/-- IN AL,Ib: 0xE4 (R400). -/
def execInAlIb (ib : Byte) (s : State) : Outcome := .next (portIn .w8 (ib.setWidth 16) s)

/-- IN eAX,Ib: 0xE5 (R400). -/
def execInEaxIb (ib : Byte) (s : State) : Outcome := .next (portIn s.vWidth (ib.setWidth 16) s)

/-- OUT Ib,AL: 0xE6 (R402). -/
def execOutIbAl (ib : Byte) (s : State) : Outcome := .next (portOut .w8 (ib.setWidth 16) s)

/-- OUT Ib,eAX: 0xE7 (R402). -/
def execOutIbEax (ib : Byte) (s : State) : Outcome := .next (portOut s.vWidth (ib.setWidth 16) s)

/-- IN AL,DX: 0xEC (R401). -/
def execInAlDx (s : State) : Outcome := .next (portIn .w8 (s.readReg .w16 .r2) s)

/-- IN eAX,DX: 0xED (R401). -/
def execInEaxDx (s : State) : Outcome := .next (portIn s.vWidth (s.readReg .w16 .r2) s)

/-- OUT DX,AL: 0xEE (R403). -/
def execOutDxAl (s : State) : Outcome := .next (portOut .w8 (s.readReg .w16 .r2) s)

/-- OUT DX,eAX: 0xEF (R403). -/
def execOutDxEax (s : State) : Outcome := .next (portOut s.vWidth (s.readReg .w16 .r2) s)

end Sys2Proof.Machine
end

