-- ==== Sys2Proof/Machine/PrefixBytes.lean ====
section
/-! DEFINITION. The five prefix bytes: each sets the latch it names for the instruction it precedes (R32, R104, R105). -/

namespace Sys2Proof.Machine

/-- The prefix byte 0x26, segment override (R104). -/
def execPrefixEs (s : State) : Outcome := .next { s with segPfx := some .es }

/-- The prefix byte 0x2E, segment override (R104). -/
def execPrefixCs (s : State) : Outcome := .next { s with segPfx := some .cs }

/-- The prefix byte 0x36, segment override (R104). -/
def execPrefixSs (s : State) : Outcome := .next { s with segPfx := some .ss }

/-- The prefix byte 0x3E, segment override (R104). -/
def execPrefixDs (s : State) : Outcome := .next { s with segPfx := some .ds }

/-- The prefix byte 0x66, operand-size override (R104). -/
def execPrefixOpsize (s : State) : Outcome := .next { s with opsizePfx := true }

end Sys2Proof.Machine
end

