-- ==== Sys2Proof/Machine/ShiftRotate.lean ====
section
/-! DEFINITION. Shifts and rotates (R260 to R268). -/

namespace Sys2Proof.Machine

/-- A member of group 2: the count is reduced modulo 32; with a count of 0 nothing is written (R260). -/
def shiftE (op : ShiftOp) (w : Width) (e : EOperand) (count : Byte) (s : State) : Outcome :=
  ofEff <|
    (s.readE w e).bind fun a =>
    let cnt := count.toNat % 32
    if cnt = 0 then .ok s []
    else
      let rf := shiftResult op w a cnt s.flags
      (s.setFlags rf.2).writeE w e rf.1

/-- ROL Eb,Ib: 0xC0 /0 (R262). -/
def execRolEbIb (e : EOperand) (ib : Byte) (s : State) : Outcome := shiftE .rol .w8 e ib s

/-- ROR Eb,Ib: 0xC0 /1 (R263). -/
def execRorEbIb (e : EOperand) (ib : Byte) (s : State) : Outcome := shiftE .ror .w8 e ib s

/-- RCL Eb,Ib: 0xC0 /2 (R264). -/
def execRclEbIb (e : EOperand) (ib : Byte) (s : State) : Outcome := shiftE .rcl .w8 e ib s

/-- RCR Eb,Ib: 0xC0 /3 (R265). -/
def execRcrEbIb (e : EOperand) (ib : Byte) (s : State) : Outcome := shiftE .rcr .w8 e ib s

/-- SHL Eb,Ib: 0xC0 /4 (R266). -/
def execShlEbIb (e : EOperand) (ib : Byte) (s : State) : Outcome := shiftE .shl .w8 e ib s

/-- SHR Eb,Ib: 0xC0 /5 (R267). -/
def execShrEbIb (e : EOperand) (ib : Byte) (s : State) : Outcome := shiftE .shr .w8 e ib s

/-- SAR Eb,Ib: 0xC0 /7 (R268). -/
def execSarEbIb (e : EOperand) (ib : Byte) (s : State) : Outcome := shiftE .sar .w8 e ib s

/-- ROL Ev,Ib: 0xC1 /0 (R262). -/
def execRolEvIb (e : EOperand) (ib : Byte) (s : State) : Outcome := shiftE .rol s.vWidth e ib s

/-- ROR Ev,Ib: 0xC1 /1 (R263). -/
def execRorEvIb (e : EOperand) (ib : Byte) (s : State) : Outcome := shiftE .ror s.vWidth e ib s

/-- RCL Ev,Ib: 0xC1 /2 (R264). -/
def execRclEvIb (e : EOperand) (ib : Byte) (s : State) : Outcome := shiftE .rcl s.vWidth e ib s

/-- RCR Ev,Ib: 0xC1 /3 (R265). -/
def execRcrEvIb (e : EOperand) (ib : Byte) (s : State) : Outcome := shiftE .rcr s.vWidth e ib s

/-- SHL Ev,Ib: 0xC1 /4 (R266). -/
def execShlEvIb (e : EOperand) (ib : Byte) (s : State) : Outcome := shiftE .shl s.vWidth e ib s

/-- SHR Ev,Ib: 0xC1 /5 (R267). -/
def execShrEvIb (e : EOperand) (ib : Byte) (s : State) : Outcome := shiftE .shr s.vWidth e ib s

/-- SAR Ev,Ib: 0xC1 /7 (R268). -/
def execSarEvIb (e : EOperand) (ib : Byte) (s : State) : Outcome := shiftE .sar s.vWidth e ib s

/-- ROL Eb,1: 0xD0 /0 (R262). -/
def execRolEbOne (e : EOperand) (s : State) : Outcome := shiftE .rol .w8 e 1 s

/-- ROR Eb,1: 0xD0 /1 (R263). -/
def execRorEbOne (e : EOperand) (s : State) : Outcome := shiftE .ror .w8 e 1 s

/-- RCL Eb,1: 0xD0 /2 (R264). -/
def execRclEbOne (e : EOperand) (s : State) : Outcome := shiftE .rcl .w8 e 1 s

/-- RCR Eb,1: 0xD0 /3 (R265). -/
def execRcrEbOne (e : EOperand) (s : State) : Outcome := shiftE .rcr .w8 e 1 s

/-- SHL Eb,1: 0xD0 /4 (R266). -/
def execShlEbOne (e : EOperand) (s : State) : Outcome := shiftE .shl .w8 e 1 s

/-- SHR Eb,1: 0xD0 /5 (R267). -/
def execShrEbOne (e : EOperand) (s : State) : Outcome := shiftE .shr .w8 e 1 s

/-- SAR Eb,1: 0xD0 /7 (R268). -/
def execSarEbOne (e : EOperand) (s : State) : Outcome := shiftE .sar .w8 e 1 s

/-- ROL Ev,1: 0xD1 /0 (R262). -/
def execRolEvOne (e : EOperand) (s : State) : Outcome := shiftE .rol s.vWidth e 1 s

/-- ROR Ev,1: 0xD1 /1 (R263). -/
def execRorEvOne (e : EOperand) (s : State) : Outcome := shiftE .ror s.vWidth e 1 s

/-- RCL Ev,1: 0xD1 /2 (R264). -/
def execRclEvOne (e : EOperand) (s : State) : Outcome := shiftE .rcl s.vWidth e 1 s

/-- RCR Ev,1: 0xD1 /3 (R265). -/
def execRcrEvOne (e : EOperand) (s : State) : Outcome := shiftE .rcr s.vWidth e 1 s

/-- SHL Ev,1: 0xD1 /4 (R266). -/
def execShlEvOne (e : EOperand) (s : State) : Outcome := shiftE .shl s.vWidth e 1 s

/-- SHR Ev,1: 0xD1 /5 (R267). -/
def execShrEvOne (e : EOperand) (s : State) : Outcome := shiftE .shr s.vWidth e 1 s

/-- SAR Ev,1: 0xD1 /7 (R268). -/
def execSarEvOne (e : EOperand) (s : State) : Outcome := shiftE .sar s.vWidth e 1 s

/-- ROL Eb,CL: 0xD2 /0 (R262). -/
def execRolEbCl (e : EOperand) (s : State) : Outcome := shiftE .rol .w8 e (s.readReg .w8 .r1) s

/-- ROR Eb,CL: 0xD2 /1 (R263). -/
def execRorEbCl (e : EOperand) (s : State) : Outcome := shiftE .ror .w8 e (s.readReg .w8 .r1) s

/-- RCL Eb,CL: 0xD2 /2 (R264). -/
def execRclEbCl (e : EOperand) (s : State) : Outcome := shiftE .rcl .w8 e (s.readReg .w8 .r1) s

/-- RCR Eb,CL: 0xD2 /3 (R265). -/
def execRcrEbCl (e : EOperand) (s : State) : Outcome := shiftE .rcr .w8 e (s.readReg .w8 .r1) s

/-- SHL Eb,CL: 0xD2 /4 (R266). -/
def execShlEbCl (e : EOperand) (s : State) : Outcome := shiftE .shl .w8 e (s.readReg .w8 .r1) s

/-- SHR Eb,CL: 0xD2 /5 (R267). -/
def execShrEbCl (e : EOperand) (s : State) : Outcome := shiftE .shr .w8 e (s.readReg .w8 .r1) s

/-- SAR Eb,CL: 0xD2 /7 (R268). -/
def execSarEbCl (e : EOperand) (s : State) : Outcome := shiftE .sar .w8 e (s.readReg .w8 .r1) s

/-- ROL Ev,CL: 0xD3 /0 (R262). -/
def execRolEvCl (e : EOperand) (s : State) : Outcome := shiftE .rol s.vWidth e (s.readReg .w8 .r1) s

/-- ROR Ev,CL: 0xD3 /1 (R263). -/
def execRorEvCl (e : EOperand) (s : State) : Outcome := shiftE .ror s.vWidth e (s.readReg .w8 .r1) s

/-- RCL Ev,CL: 0xD3 /2 (R264). -/
def execRclEvCl (e : EOperand) (s : State) : Outcome := shiftE .rcl s.vWidth e (s.readReg .w8 .r1) s

/-- RCR Ev,CL: 0xD3 /3 (R265). -/
def execRcrEvCl (e : EOperand) (s : State) : Outcome := shiftE .rcr s.vWidth e (s.readReg .w8 .r1) s

/-- SHL Ev,CL: 0xD3 /4 (R266). -/
def execShlEvCl (e : EOperand) (s : State) : Outcome := shiftE .shl s.vWidth e (s.readReg .w8 .r1) s

/-- SHR Ev,CL: 0xD3 /5 (R267). -/
def execShrEvCl (e : EOperand) (s : State) : Outcome := shiftE .shr s.vWidth e (s.readReg .w8 .r1) s

/-- SAR Ev,CL: 0xD3 /7 (R268). -/
def execSarEvCl (e : EOperand) (s : State) : Outcome := shiftE .sar s.vWidth e (s.readReg .w8 .r1) s

end Sys2Proof.Machine
end

