-- ==== Sys2Proof/Machine/Stack.lean ====
section
/-! DEFINITION. The stack: PUSH, POP, PUSHF, POPF (R300 to R310). -/

namespace Sys2Proof.Machine

/-- PUSH of an E operand, read before SP is changed (R304). -/
def pushE (w : Width) (e : EOperand) (s : State) : Eff State :=
  (s.readE w e).bind fun v =>
  s.push w v

/-- POP into an E operand, written after SP was moved (R303, R305). -/
def popE (w : Width) (e : EOperand) (s : State) : Eff State :=
  (s.pop w).bind fun vs =>
  vs.2.writeE w e vs.1

/-- POP into a segment register (R307). -/
def popSreg (i : SReg) (s : State) : Eff State :=
  (s.pop .w16).bind fun vs =>
  .ok (vs.2.setSreg i vs.1) []

/-- POPF: an image with bit 8 or bit 10 set is refused (R309, U7). -/
def popFlags (s : State) : Eff State :=
  (s.pop .w16).bind fun vs =>
  vs.2.loadFlags vs.1

/-- PUSH ES: 0x06 (R306). -/
def execPushEs (s : State) : Outcome := ofEff (s.push .w16 (s.sreg .es))

/-- PUSH CS: 0x0E (R306). -/
def execPushCs (s : State) : Outcome := ofEff (s.push .w16 (s.sreg .cs))

/-- PUSH SS: 0x16 (R306). -/
def execPushSs (s : State) : Outcome := ofEff (s.push .w16 (s.sreg .ss))

/-- PUSH DS: 0x1E (R306). -/
def execPushDs (s : State) : Outcome := ofEff (s.push .w16 (s.sreg .ds))

/-- POP ES: 0x07 (R307). -/
def execPopEs (s : State) : Outcome := ofEff (popSreg .es s)

/-- POP SS: 0x17 (R307). -/
def execPopSs (s : State) : Outcome := ofEff (popSreg .ss s)

/-- POP DS: 0x1F (R307). -/
def execPopDs (s : State) : Outcome := ofEff (popSreg .ds s)

/-- PUSH r: 0x50+r (R302). -/
def execPushR (r : RegNum) (s : State) : Outcome := ofEff (s.push s.vWidth (s.readReg s.vWidth r))

/-- POP r: 0x58+r (R303). -/
def execPopR (r : RegNum) (s : State) : Outcome := ofEff (popE s.vWidth (.reg r) s)

/-- PUSH Iv: 0x68 (R304). -/
def execPushIv (iv : ImmV) (s : State) : Outcome := ofEff (s.push s.vWidth (immValue s.vWidth iv))

/-- PUSH Ibs: 0x6A (R304). -/
def execPushIbs (ib : Byte) (s : State) : Outcome := ofEff (s.push s.vWidth (immSignExtended s.vWidth ib))

/-- POP Ev: 0x8F /0 (R305). -/
def execPopEv (e : EOperand) (s : State) : Outcome := ofEff (popE s.vWidth e s)

/-- PUSHF: 0x9C (R308). -/
def execPushf (s : State) : Outcome := ofEff (s.push .w16 (flagsImage s.flags))

/-- POPF: 0x9D (R309). -/
def execPopf (s : State) : Outcome := ofEff (popFlags s)

/-- PUSH Ev: 0xFF /6 (R304). -/
def execPushEv (e : EOperand) (s : State) : Outcome := ofEff (pushE s.vWidth e s)

end Sys2Proof.Machine
end

