-- ==== Sys2Proof/Machine/Dispatch.lean ====
section
/-! DEFINITION. One arm per instruction: the meaning it calls. -/

namespace Sys2Proof.Machine

def exec (i : Instr) (s : State) : Host.Outcome State Fault Refusal :=
  match i with
  | .addEbGb e g => Sys2Proof.Machine.execAddEbGb e g s
  | .addEvGv e g => Sys2Proof.Machine.execAddEvGv e g s
  | .addGbEb g e => Sys2Proof.Machine.execAddGbEb g e s
  | .addGvEv g e => Sys2Proof.Machine.execAddGvEv g e s
  | .addAlIb ib => Sys2Proof.Machine.execAddAlIb ib s
  | .addEaxIv iv => Sys2Proof.Machine.execAddEaxIv iv s
  | .addEbIb e ib => Sys2Proof.Machine.execAddEbIb e ib s
  | .addEvIv e iv => Sys2Proof.Machine.execAddEvIv e iv s
  | .addEvIbs e ib => Sys2Proof.Machine.execAddEvIbs e ib s
  | .orEbGb e g => Sys2Proof.Machine.execOrEbGb e g s
  | .orEvGv e g => Sys2Proof.Machine.execOrEvGv e g s
  | .orGbEb g e => Sys2Proof.Machine.execOrGbEb g e s
  | .orGvEv g e => Sys2Proof.Machine.execOrGvEv g e s
  | .orAlIb ib => Sys2Proof.Machine.execOrAlIb ib s
  | .orEaxIv iv => Sys2Proof.Machine.execOrEaxIv iv s
  | .orEbIb e ib => Sys2Proof.Machine.execOrEbIb e ib s
  | .orEvIv e iv => Sys2Proof.Machine.execOrEvIv e iv s
  | .orEvIbs e ib => Sys2Proof.Machine.execOrEvIbs e ib s
  | .adcEbGb e g => Sys2Proof.Machine.execAdcEbGb e g s
  | .adcEvGv e g => Sys2Proof.Machine.execAdcEvGv e g s
  | .adcGbEb g e => Sys2Proof.Machine.execAdcGbEb g e s
  | .adcGvEv g e => Sys2Proof.Machine.execAdcGvEv g e s
  | .adcAlIb ib => Sys2Proof.Machine.execAdcAlIb ib s
  | .adcEaxIv iv => Sys2Proof.Machine.execAdcEaxIv iv s
  | .adcEbIb e ib => Sys2Proof.Machine.execAdcEbIb e ib s
  | .adcEvIv e iv => Sys2Proof.Machine.execAdcEvIv e iv s
  | .adcEvIbs e ib => Sys2Proof.Machine.execAdcEvIbs e ib s
  | .sbbEbGb e g => Sys2Proof.Machine.execSbbEbGb e g s
  | .sbbEvGv e g => Sys2Proof.Machine.execSbbEvGv e g s
  | .sbbGbEb g e => Sys2Proof.Machine.execSbbGbEb g e s
  | .sbbGvEv g e => Sys2Proof.Machine.execSbbGvEv g e s
  | .sbbAlIb ib => Sys2Proof.Machine.execSbbAlIb ib s
  | .sbbEaxIv iv => Sys2Proof.Machine.execSbbEaxIv iv s
  | .sbbEbIb e ib => Sys2Proof.Machine.execSbbEbIb e ib s
  | .sbbEvIv e iv => Sys2Proof.Machine.execSbbEvIv e iv s
  | .sbbEvIbs e ib => Sys2Proof.Machine.execSbbEvIbs e ib s
  | .andEbGb e g => Sys2Proof.Machine.execAndEbGb e g s
  | .andEvGv e g => Sys2Proof.Machine.execAndEvGv e g s
  | .andGbEb g e => Sys2Proof.Machine.execAndGbEb g e s
  | .andGvEv g e => Sys2Proof.Machine.execAndGvEv g e s
  | .andAlIb ib => Sys2Proof.Machine.execAndAlIb ib s
  | .andEaxIv iv => Sys2Proof.Machine.execAndEaxIv iv s
  | .andEbIb e ib => Sys2Proof.Machine.execAndEbIb e ib s
  | .andEvIv e iv => Sys2Proof.Machine.execAndEvIv e iv s
  | .andEvIbs e ib => Sys2Proof.Machine.execAndEvIbs e ib s
  | .subEbGb e g => Sys2Proof.Machine.execSubEbGb e g s
  | .subEvGv e g => Sys2Proof.Machine.execSubEvGv e g s
  | .subGbEb g e => Sys2Proof.Machine.execSubGbEb g e s
  | .subGvEv g e => Sys2Proof.Machine.execSubGvEv g e s
  | .subAlIb ib => Sys2Proof.Machine.execSubAlIb ib s
  | .subEaxIv iv => Sys2Proof.Machine.execSubEaxIv iv s
  | .subEbIb e ib => Sys2Proof.Machine.execSubEbIb e ib s
  | .subEvIv e iv => Sys2Proof.Machine.execSubEvIv e iv s
  | .subEvIbs e ib => Sys2Proof.Machine.execSubEvIbs e ib s
  | .xorEbGb e g => Sys2Proof.Machine.execXorEbGb e g s
  | .xorEvGv e g => Sys2Proof.Machine.execXorEvGv e g s
  | .xorGbEb g e => Sys2Proof.Machine.execXorGbEb g e s
  | .xorGvEv g e => Sys2Proof.Machine.execXorGvEv g e s
  | .xorAlIb ib => Sys2Proof.Machine.execXorAlIb ib s
  | .xorEaxIv iv => Sys2Proof.Machine.execXorEaxIv iv s
  | .xorEbIb e ib => Sys2Proof.Machine.execXorEbIb e ib s
  | .xorEvIv e iv => Sys2Proof.Machine.execXorEvIv e iv s
  | .xorEvIbs e ib => Sys2Proof.Machine.execXorEvIbs e ib s
  | .cmpEbGb e g => Sys2Proof.Machine.execCmpEbGb e g s
  | .cmpEvGv e g => Sys2Proof.Machine.execCmpEvGv e g s
  | .cmpGbEb g e => Sys2Proof.Machine.execCmpGbEb g e s
  | .cmpGvEv g e => Sys2Proof.Machine.execCmpGvEv g e s
  | .cmpAlIb ib => Sys2Proof.Machine.execCmpAlIb ib s
  | .cmpEaxIv iv => Sys2Proof.Machine.execCmpEaxIv iv s
  | .cmpEbIb e ib => Sys2Proof.Machine.execCmpEbIb e ib s
  | .cmpEvIv e iv => Sys2Proof.Machine.execCmpEvIv e iv s
  | .cmpEvIbs e ib => Sys2Proof.Machine.execCmpEvIbs e ib s
  | .pushEs => Sys2Proof.Machine.execPushEs s
  | .pushCs => Sys2Proof.Machine.execPushCs s
  | .pushSs => Sys2Proof.Machine.execPushSs s
  | .pushDs => Sys2Proof.Machine.execPushDs s
  | .popEs => Sys2Proof.Machine.execPopEs s
  | .popSs => Sys2Proof.Machine.execPopSs s
  | .popDs => Sys2Proof.Machine.execPopDs s
  | .prefixEs => Sys2Proof.Machine.execPrefixEs s
  | .prefixCs => Sys2Proof.Machine.execPrefixCs s
  | .prefixSs => Sys2Proof.Machine.execPrefixSs s
  | .prefixDs => Sys2Proof.Machine.execPrefixDs s
  | .prefixOpsize => Sys2Proof.Machine.execPrefixOpsize s
  | .incR r => Sys2Proof.Machine.execIncR r s
  | .decR r => Sys2Proof.Machine.execDecR r s
  | .pushR r => Sys2Proof.Machine.execPushR r s
  | .popR r => Sys2Proof.Machine.execPopR r s
  | .pushIv iv => Sys2Proof.Machine.execPushIv iv s
  | .pushIbs ib => Sys2Proof.Machine.execPushIbs ib s
  | .jo rel => Sys2Proof.Machine.execJo rel s
  | .jno rel => Sys2Proof.Machine.execJno rel s
  | .jb rel => Sys2Proof.Machine.execJb rel s
  | .jae rel => Sys2Proof.Machine.execJae rel s
  | .je rel => Sys2Proof.Machine.execJe rel s
  | .jne rel => Sys2Proof.Machine.execJne rel s
  | .jbe rel => Sys2Proof.Machine.execJbe rel s
  | .ja rel => Sys2Proof.Machine.execJa rel s
  | .js rel => Sys2Proof.Machine.execJs rel s
  | .jns rel => Sys2Proof.Machine.execJns rel s
  | .jp rel => Sys2Proof.Machine.execJp rel s
  | .jnp rel => Sys2Proof.Machine.execJnp rel s
  | .jl rel => Sys2Proof.Machine.execJl rel s
  | .jge rel => Sys2Proof.Machine.execJge rel s
  | .jle rel => Sys2Proof.Machine.execJle rel s
  | .jg rel => Sys2Proof.Machine.execJg rel s
  | .testEbGb e g => Sys2Proof.Machine.execTestEbGb e g s
  | .testEvGv e g => Sys2Proof.Machine.execTestEvGv e g s
  | .xchgEbGb e g => Sys2Proof.Machine.execXchgEbGb e g s
  | .xchgEvGv e g => Sys2Proof.Machine.execXchgEvGv e g s
  | .movEbGb e g => Sys2Proof.Machine.execMovEbGb e g s
  | .movEvGv e g => Sys2Proof.Machine.execMovEvGv e g s
  | .movGbEb g e => Sys2Proof.Machine.execMovGbEb g e s
  | .movGvEv g e => Sys2Proof.Machine.execMovGvEv g e s
  | .movEwSw e sr => Sys2Proof.Machine.execMovEwSw e sr s
  | .movEsEw e => Sys2Proof.Machine.execMovEsEw e s
  | .movSsEw e => Sys2Proof.Machine.execMovSsEw e s
  | .movDsEw e => Sys2Proof.Machine.execMovDsEw e s
  | .leaGvM g m => Sys2Proof.Machine.execLeaGvM g m s
  | .popEv e => Sys2Proof.Machine.execPopEv e s
  | .nop => Sys2Proof.Machine.execNop s
  | .xchgEaxEcx => Sys2Proof.Machine.execXchgEaxEcx s
  | .xchgEaxEdx => Sys2Proof.Machine.execXchgEaxEdx s
  | .xchgEaxEbx => Sys2Proof.Machine.execXchgEaxEbx s
  | .xchgEaxEsp => Sys2Proof.Machine.execXchgEaxEsp s
  | .xchgEaxEbp => Sys2Proof.Machine.execXchgEaxEbp s
  | .xchgEaxEsi => Sys2Proof.Machine.execXchgEaxEsi s
  | .xchgEaxEdi => Sys2Proof.Machine.execXchgEaxEdi s
  | .cbw => Sys2Proof.Machine.execCbw s
  | .cwd => Sys2Proof.Machine.execCwd s
  | .callAp off sel => Sys2Proof.Machine.execCallAp off sel s
  | .pushf => Sys2Proof.Machine.execPushf s
  | .popf => Sys2Proof.Machine.execPopf s
  | .sahf => Sys2Proof.Machine.execSahf s
  | .lahf => Sys2Proof.Machine.execLahf s
  | .movAlOb off => Sys2Proof.Machine.execMovAlOb off s
  | .movEaxOv off => Sys2Proof.Machine.execMovEaxOv off s
  | .movObAl off => Sys2Proof.Machine.execMovObAl off s
  | .movOvEax off => Sys2Proof.Machine.execMovOvEax off s
  | .testAlIb ib => Sys2Proof.Machine.execTestAlIb ib s
  | .testEaxIv iv => Sys2Proof.Machine.execTestEaxIv iv s
  | .movR8Ib r ib => Sys2Proof.Machine.execMovR8Ib r ib s
  | .movRIv r iv => Sys2Proof.Machine.execMovRIv r iv s
  | .rolEbIb e ib => Sys2Proof.Machine.execRolEbIb e ib s
  | .rorEbIb e ib => Sys2Proof.Machine.execRorEbIb e ib s
  | .rclEbIb e ib => Sys2Proof.Machine.execRclEbIb e ib s
  | .rcrEbIb e ib => Sys2Proof.Machine.execRcrEbIb e ib s
  | .shlEbIb e ib => Sys2Proof.Machine.execShlEbIb e ib s
  | .shrEbIb e ib => Sys2Proof.Machine.execShrEbIb e ib s
  | .sarEbIb e ib => Sys2Proof.Machine.execSarEbIb e ib s
  | .rolEvIb e ib => Sys2Proof.Machine.execRolEvIb e ib s
  | .rorEvIb e ib => Sys2Proof.Machine.execRorEvIb e ib s
  | .rclEvIb e ib => Sys2Proof.Machine.execRclEvIb e ib s
  | .rcrEvIb e ib => Sys2Proof.Machine.execRcrEvIb e ib s
  | .shlEvIb e ib => Sys2Proof.Machine.execShlEvIb e ib s
  | .shrEvIb e ib => Sys2Proof.Machine.execShrEvIb e ib s
  | .sarEvIb e ib => Sys2Proof.Machine.execSarEvIb e ib s
  | .rolEbOne e => Sys2Proof.Machine.execRolEbOne e s
  | .rorEbOne e => Sys2Proof.Machine.execRorEbOne e s
  | .rclEbOne e => Sys2Proof.Machine.execRclEbOne e s
  | .rcrEbOne e => Sys2Proof.Machine.execRcrEbOne e s
  | .shlEbOne e => Sys2Proof.Machine.execShlEbOne e s
  | .shrEbOne e => Sys2Proof.Machine.execShrEbOne e s
  | .sarEbOne e => Sys2Proof.Machine.execSarEbOne e s
  | .rolEvOne e => Sys2Proof.Machine.execRolEvOne e s
  | .rorEvOne e => Sys2Proof.Machine.execRorEvOne e s
  | .rclEvOne e => Sys2Proof.Machine.execRclEvOne e s
  | .rcrEvOne e => Sys2Proof.Machine.execRcrEvOne e s
  | .shlEvOne e => Sys2Proof.Machine.execShlEvOne e s
  | .shrEvOne e => Sys2Proof.Machine.execShrEvOne e s
  | .sarEvOne e => Sys2Proof.Machine.execSarEvOne e s
  | .rolEbCl e => Sys2Proof.Machine.execRolEbCl e s
  | .rorEbCl e => Sys2Proof.Machine.execRorEbCl e s
  | .rclEbCl e => Sys2Proof.Machine.execRclEbCl e s
  | .rcrEbCl e => Sys2Proof.Machine.execRcrEbCl e s
  | .shlEbCl e => Sys2Proof.Machine.execShlEbCl e s
  | .shrEbCl e => Sys2Proof.Machine.execShrEbCl e s
  | .sarEbCl e => Sys2Proof.Machine.execSarEbCl e s
  | .rolEvCl e => Sys2Proof.Machine.execRolEvCl e s
  | .rorEvCl e => Sys2Proof.Machine.execRorEvCl e s
  | .rclEvCl e => Sys2Proof.Machine.execRclEvCl e s
  | .rcrEvCl e => Sys2Proof.Machine.execRcrEvCl e s
  | .shlEvCl e => Sys2Proof.Machine.execShlEvCl e s
  | .shrEvCl e => Sys2Proof.Machine.execShrEvCl e s
  | .sarEvCl e => Sys2Proof.Machine.execSarEvCl e s
  | .retIw iw => Sys2Proof.Machine.execRetIw iw s
  | .ret => Sys2Proof.Machine.execRet s
  | .movEbIb e ib => Sys2Proof.Machine.execMovEbIb e ib s
  | .movEvIv e iv => Sys2Proof.Machine.execMovEvIv e iv s
  | .retfIw iw => Sys2Proof.Machine.execRetfIw iw s
  | .retf => Sys2Proof.Machine.execRetf s
  | .int3 => Sys2Proof.Machine.execInt3 s
  | .intIb ib => Sys2Proof.Machine.execIntIb ib s
  | .into => Sys2Proof.Machine.execInto s
  | .iret => Sys2Proof.Machine.execIret s
  | .xlat => Sys2Proof.Machine.execXlat s
  | .loopne rel => Sys2Proof.Machine.execLoopne rel s
  | .loope rel => Sys2Proof.Machine.execLoope rel s
  | .loop rel => Sys2Proof.Machine.execLoop rel s
  | .jcxz rel => Sys2Proof.Machine.execJcxz rel s
  | .inAlIb ib => Sys2Proof.Machine.execInAlIb ib s
  | .inEaxIb ib => Sys2Proof.Machine.execInEaxIb ib s
  | .outIbAl ib => Sys2Proof.Machine.execOutIbAl ib s
  | .outIbEax ib => Sys2Proof.Machine.execOutIbEax ib s
  | .callJv rel => Sys2Proof.Machine.execCallJv rel s
  | .jmpJv rel => Sys2Proof.Machine.execJmpJv rel s
  | .jmpAp off sel => Sys2Proof.Machine.execJmpAp off sel s
  | .jmpJb rel => Sys2Proof.Machine.execJmpJb rel s
  | .inAlDx => Sys2Proof.Machine.execInAlDx s
  | .inEaxDx => Sys2Proof.Machine.execInEaxDx s
  | .outDxAl => Sys2Proof.Machine.execOutDxAl s
  | .outDxEax => Sys2Proof.Machine.execOutDxEax s
  | .hlt => Sys2Proof.Machine.execHlt s
  | .cmc => Sys2Proof.Machine.execCmc s
  | .testEbIb e ib => Sys2Proof.Machine.execTestEbIb e ib s
  | .testEvIv e iv => Sys2Proof.Machine.execTestEvIv e iv s
  | .notEb e => Sys2Proof.Machine.execNotEb e s
  | .notEv e => Sys2Proof.Machine.execNotEv e s
  | .negEb e => Sys2Proof.Machine.execNegEb e s
  | .negEv e => Sys2Proof.Machine.execNegEv e s
  | .mulEb e => Sys2Proof.Machine.execMulEb e s
  | .mulEv e => Sys2Proof.Machine.execMulEv e s
  | .imulEb e => Sys2Proof.Machine.execImulEb e s
  | .imulEv e => Sys2Proof.Machine.execImulEv e s
  | .divEb e => Sys2Proof.Machine.execDivEb e s
  | .divEv e => Sys2Proof.Machine.execDivEv e s
  | .idivEb e => Sys2Proof.Machine.execIdivEb e s
  | .idivEv e => Sys2Proof.Machine.execIdivEv e s
  | .clc => Sys2Proof.Machine.execClc s
  | .stc => Sys2Proof.Machine.execStc s
  | .cli => Sys2Proof.Machine.execCli s
  | .sti => Sys2Proof.Machine.execSti s
  | .incEb e => Sys2Proof.Machine.execIncEb e s
  | .decEb e => Sys2Proof.Machine.execDecEb e s
  | .incEv e => Sys2Proof.Machine.execIncEv e s
  | .decEv e => Sys2Proof.Machine.execDecEv e s
  | .callEv e => Sys2Proof.Machine.execCallEv e s
  | .callMp m => Sys2Proof.Machine.execCallMp m s
  | .jmpEv e => Sys2Proof.Machine.execJmpEv e s
  | .jmpMp m => Sys2Proof.Machine.execJmpMp m s
  | .pushEv e => Sys2Proof.Machine.execPushEv e s

end Sys2Proof.Machine
end

