-- ==== Sys2Proof/Machine/Reset.lean ====
section
/-! DEFINITION. Reset (R600 to R603), the devices' `reset()` (R423, R556), and the environment phase with the host's
actions (R503, R79, R570, R600). -/

namespace Sys2Proof.Machine

/-- The device-internal part of a device's `reset()`: the disk channel re-initialised (R556; constructed first when it
has no state yet), the stub back before any address write (R423, R426; log 25). -/
def State.resetDeviceState (s : State) (x : DeviceSpec) : State :=
  match x.kind with
  | .blackBox _ => s
  | .configStub _ _ _ => { s with devices := Assoc.put x.id (.stub false) s.devices }
  | .diskChannel k0 k1 _ =>
    let c := match Assoc.find x.id s.devices with
      | some (.disk c) => c
      | some (.stub _) => DiskChannel.construct k0 k1
      | none => DiskChannel.construct k0 k1
    { s with devices := Assoc.put x.id (.disk c.reset) s.devices }

/-- A device asks for a line if it interrupts (R423, R531). -/
def State.requestIfWanted (s : State) (x : DeviceSpec) : State :=
  if x.kind.binding.wantsLine then (s.requestLine x.id x.linePrefs).1 else s

/-- `d.reset()`: re-initialise, request a line, unregister and register ports (R423, R556). It raises no line: R603 lets
a device's `reset()` do so, which the model writes as an update input after it (DESIGN CHOICE, log 29). -/
def State.deviceReset (s : State) (x : DeviceSpec) : State :=
  let s1 := (s.resetDeviceState x).requestIfWanted x
  let s2 := x.kind.binding.drops.foldl (fun t p => t.unregisterPort p) s1
  x.kind.binding.ports.foldl (fun t p => t.registerPort x.id p) s2

/-- `CpuReset()` at a system reset: CS:ip at the reset vector, flags and latches cleared; the general registers, ES, SS
and DS are kept, one of the two treatments R601 allows (DESIGN CHOICE, log 9; unsafe). -/
def State.cpuReset (s : State) : State :=
  { s with
    sregs := s.sregs.set .cs s.params.resetCs
    ip := s.params.resetIp
    flags := ⟨false, false, false, false, false, false, false⟩
    opsizePfx := false
    segPfx := none
    halted := false }

/-- `FabricReset()` at a system reset: the port map and the watch address kept, lines released, nothing pending, the
gate at `A20_RESET`, then the binding pass in `RESET_ORDER` (R602). -/
def State.fabricReset (s : State) : State :=
  s.params.devices.foldl (fun t x => t.deviceReset x)
    { s with lineOf := [], pending := [], a20 := s.params.a20Reset }

/-- A system reset: `CpuReset()`, then `FabricReset()`; memory is not touched (R602, R603). -/
def State.systemReset (s : State) : State := s.cpuReset.fabricReset

/-- Construction: the port map empty and no watch address, then the same pass (R602). -/
def State.construct (s : State) : State :=
  { s with owner := [], watch := none, devices := [] }.systemReset

/-- Host `setBytes(addr, bytes)`: no gate, refused at or beyond RAM_SIZE (R79). -/
def State.setBytes (s : State) (addr : Nat) (bytes : List Byte) : Except Refusal State :=
  if bytes = [] ∨ addr + bytes.length ≤ s.params.ramSize then .ok { s with mem := s.mem.writeBytes addr bytes }
  else .error .memoryRange

/-- The `reset()` of one device outside a system reset: a line it holds it keeps (R531, R556). -/
def State.resetOne (s : State) (d : DeviceId) : State :=
  match s.deviceSpec d with
  | some x => s.deviceReset x
  | none => s

/-- One input between two cycles (R503, R600). -/
def State.input (s : State) : Input → Except Refusal State
  | .update d as => .ok (s.deviceActions d 0 as)
  | .gate b => .ok { s with a20 := b }
  | .deviceReset d => .ok (s.resetOne d)
  | .systemReset => .ok s.systemReset
  | .setBytes addr bytes => s.setBytes addr bytes
  | .armWatch a => .ok { s with watch := some a }
  | .disarmWatch => .ok { s with watch := none }

/-- The inputs of one environment phase, in order. -/
def State.inputs (s : State) : List Input → Except Refusal State
  | [] => .ok s
  | i :: is => do
    let s' ← s.input i
    s'.inputs is

/-- The environment phase before a cycle: the next list of inputs, none when the queue is empty (R503; log 22). -/
def State.environmentPhase (s : State) : Except Refusal State :=
  match s.phases with
  | [] => .ok s
  | p :: ps => { s with phases := ps }.inputs p

end Sys2Proof.Machine
end

