-- ==== Sys2Proof/Machine/Cycle.lean ====
section
/-! DEFINITION. The instruction cycle: the boundary check, fetching, decoding and executing one instruction with its
prefixes, and the DecodeFault (R500, R501, R101 to R103, R510, R511). -/

namespace Sys2Proof.Machine

/-- The instruction bytes at CS:`off`, at most `n` of them, up to the first one that no memory backs (R102, R63). -/
def State.fetchBytes (s : State) : Nat → Half → List Byte
  | 0, _ => []
  | n + 1, off =>
    if s.backed (linear (s.sreg .cs) off) then s.byteAt (linear (s.sreg .cs) off) :: s.fetchBytes n (off + 1)
    else []

/-- The bytes a decode can fetch: `MAX_INSN_LEN` of them at most (R100, R101). -/
def State.fetchWindow (s : State) : List Byte := s.fetchBytes s.params.maxInsnLen s.ip

/-- The trace records of fetching the `n` bytes at CS:`off` (R102, R570). -/
def State.fetchRecords (s : State) : Nat → Half → List TraceRecord
  | 0, _ => []
  | n + 1, off => s.flag .read (linear (s.sreg .cs) off) ++ s.fetchRecords n (off + 1)

/-- The start of a decode: the instruction start is saved and the prefix latches are cleared (R32, R101). A DecodeFault
restores this very state, since nothing but ip and the latches changes before the fault (R103, R510). -/
def State.startDecode (s : State) : State :=
  { s with ipStart := s.ip, opsizePfx := false, segPfx := none }

/-- A DecodeFault, from the restored state, with the bytes fetched so far: the fault record is surfaced, and under `halt`
the run stops with it; under `vector6` it is put out and interrupt 6 is entered with the return offset `ip_start`
(R510, R511). -/
def State.decodeFault (s : State) (bytes : List Byte) (info : DecodeInfo) : Outcome :=
  match s.params.policy with
  | .halt => .fault (.decodeFault (s.sreg .cs) s.ip bytes info)
  | .vector6 =>
    let s' := (s.emit (s.fetchRecords bytes.length s.ip)).log (.decodeFault (s.sreg .cs) s.ip bytes info)
    ofEff (s'.interrupt 6 s.ip)

/-- The instruction goes on past the bytes of the window: the next byte is refused when no memory backs it; else it is
byte number `MAX_INSN_LEN` + 1 and the instruction is too long (R63, R101, R131). -/
def State.pastWindow (s : State) (window : List Byte) : Outcome :=
  let next := linear (s.sreg .cs) (s.ip + BitVec.ofNat 16 window.length)
  if s.backed next then s.decodeFault (window ++ [s.byteAt next]) .tooLong else .refused .memoryRange

/-- Move `ip` past `n` fetched bytes, their trace records emitted (R28, R102, R570). -/
def State.advance (s : State) (n : Nat) : State :=
  (s.emit (s.fetchRecords n s.ip)).setIp (s.ip + BitVec.ofNat 16 n)

/-- Decode and execute at the head of `bs`, which is what is left of the window: each prefix byte sets its latch and
the decode goes on; the instruction executes (R101, R105). `start` is the state at the start of the decode. `fuel`
bounds the number of units; more than the bytes of the window are never needed. -/
def runUnits (start : State) (window : List Byte) : Nat → List Byte → State → Outcome
  | 0, _, _ => start.pastWindow window
  | fuel + 1, bs, s =>
    match decodeUnit s.opsizePfx bs with
    | .short => start.pastWindow window
    | .fault info n => start.decodeFault (window.take (window.length - bs.length + n)) info
    | .done i n =>
      if i.isPrefixByte then
        match exec i (s.advance n) with
        | .next s' => runUnits start window fuel (bs.drop n) s'
        | .fault f => .fault f
        | .refused r => .refused r
      else exec i (s.advance n)

/-- One instruction: `Decode()` and the instruction's rule (R101, R500). -/
def executeOne (s : State) : Outcome :=
  let start := s.startDecode
  let window := start.fetchWindow
  runUnits start window (window.length + 1) window start

/-- `Cycle()`: a line interrupt when IF = 1 and a line is pending; else nothing when halted; else one instruction
(R500, R501). -/
def cycle (s : State) : Outcome :=
  match s.deliverable with
  | some n => ofEff (s.interrupt (s.vectorOfLine n) s.ip)
  | none => if s.halted then .next s else executeOne s

/-- One step: the environment phase, then one cycle (R500, R503; log 22). -/
def stepOnce (s : State) : Outcome :=
  match s.environmentPhase with
  | .ok s' => cycle s'
  | .error r => .refused r

/-- Store bytes at consecutive offsets of a segment without the range check, as a loader does (R79). -/
def State.placeBytes (s : State) (sel off : Half) : List Byte → State
  | [] => s
  | b :: bs => { s with mem := s.mem.write (s.phys (linear sel off)) b }.placeBytes sel (off + 1) bs

/-- The state in which the very next cycle fetches at CS:ip: no environment phase before it, no line interrupt to
take, not halted (R500). -/
def State.readyToFetch (s : State) : State :=
  { s with
    halted := false
    pending := if s.flags.ifl then [] else s.pending
    phases := if s.phases = [] then [] else [] :: s.phases }

end Sys2Proof.Machine
end

