-- ==== Sys2Proof/Machine/Step.lean ====
section
/-! DEFINITION. The step of the machine, and a state whose next step runs a given instruction. -/

namespace Sys2Proof.Machine

/-- One step of the block (R500, R503): `stepOnce`. -/
def step (s : State) : Host.Outcome State Fault Refusal := stepOnce s

/-- `s` with the instruction whose bits are `w` (numbered as the opcode table numbers them, log 13) stored at CS:ip, so
that the next step fetches and runs it (log 14). -/
def State.withFetchWord (s : State) (nbits w : Nat) : State :=
  s.readyToFetch.placeBytes (s.sreg .cs) s.ip (tableBytes nbits w)

end Sys2Proof.Machine
end

