-- ==== Sys2Proof/Safety.lean ====
section
/-! DEFINITION. What counts as a well-formed state and as a step that stops: the terms in which claims are made. -/

namespace Sys2Proof.Machine

/-- The port map holds each 16-bit port number at most once: "a port has at most one owner at any time" (R37, R420). -/
abbrev State.portMapOk (s : State) : Prop := Assoc.Sorted s.owner ∧ ∀ c ∈ s.owner, c.1 < 2 ^ 16

/-- One line per device, every line below `NLINES`, no line held by two devices (R38, R531). -/
abbrev State.linesOk (s : State) : Prop :=
  Assoc.Sorted s.lineOf ∧ (s.lineOf.map (·.2)).Nodup ∧ ∀ c ∈ s.lineOf, c.2 < s.params.nlines

/-- The raised lines, each once, each held by a device (R38, R532). -/
abbrev State.pendingOk (s : State) : Prop :=
  s.pending.Pairwise (· < ·) ∧ ∀ n ∈ s.pending, s.lineHeld n = true

/-- Memory in canonical form, with nothing at or beyond RAM_SIZE (R35, R63, R79). -/
abbrev State.memoryOk (s : State) : Prop := Memory.wf s.mem ∧ ∀ c ∈ s.mem, c.1 < s.params.ramSize

/-- The invariant of the block's tables and of memory. -/
structure State.Inv (s : State) : Prop where
  memory : s.memoryOk
  ports : s.portMapOk
  lines : s.linesOk
  pending : s.pendingOk

/-- Every address the CPU can form is backed: `RAM_SIZE >= 0x10FFF0` (R63). -/
abbrev State.fullRam (s : State) : Prop := 0x10FFF0 ≤ s.params.ramSize

/-- No input stands before the next cycle (R503). -/
abbrev State.noInput (s : State) : Prop := s.phases = []

/-- The next cycle executes an instruction: no line interrupt is taken and the CPU is not halted (R500). -/
abbrev State.executes (s : State) : Prop := s.deliverable = none ∧ s.halted = false

/-! ### Bytes in memory -/

/-- The physical address of byte `k` of an operand at `sel:off`: the offset wraps modulo 2^16 and each byte passes
the gate by itself (R62, R66). -/
def State.byteAddr (s : State) (sel off : Half) (k : Nat) : Nat := s.phys (linear sel (off + BitVec.ofNat 16 k))

/-- The `n` bytes at `sel:off` are all backed (R63). -/
abbrev State.segBacked (s : State) (sel off : Half) (n : Nat) : Prop :=
  ∀ k < n, s.byteAddr sel off k < s.params.ramSize

/-- Byte `k` of a value, byte 0 the lowest (R68). -/
def byteOf {b : Nat} (v : BitVec b) (k : Nat) : Byte := v.extractLsb' (8 * k) 8

/-- Memory holds the `n` low bytes of `v` at `sel:off`, low byte first (R66, R68). -/
abbrev State.Holds (s : State) (sel off : Half) (n : Nat) {b : Nat} (v : BitVec b) : Prop :=
  ∀ k < n, s.mem.read (s.byteAddr sel off k) = byteOf v k

/-- `m` is the memory of `s` after the `n` low bytes of `v` were stored at `sel:off`, low byte first; every other byte
reads as before (R67, R68). -/
def State.Stores (s : State) (sel off : Half) (n : Nat) {b : Nat} (v : BitVec b) (m : Memory) : Prop :=
  (∀ k < n, m.read (s.byteAddr sel off k) = byteOf v k) ∧
  ∀ a, (∀ k < n, a ≠ s.byteAddr sel off k) → m.read a = s.mem.read a

/-! ### Bytes at an absolute address (R64, R65) -/

/-- The physical address of byte `k` of an access at an absolute address: no offset wrap, each byte passes the gate by
itself (R62, R64). -/
def State.absAddr (s : State) (a : Linear) (k : Nat) : Nat := s.phys (a + BitVec.ofNat 21 k)

/-- The `n` bytes at an absolute address are all backed (R63). -/
abbrev State.absBacked (s : State) (a : Linear) (n : Nat) : Prop := ∀ k < n, s.absAddr a k < s.params.ramSize

/-- Memory holds the `n` low bytes of `v` at an absolute address, low byte first (R64, R68). -/
abbrev State.AbsHolds (s : State) (a : Linear) (n : Nat) {b : Nat} (v : BitVec b) : Prop :=
  ∀ k < n, s.mem.read (s.absAddr a k) = byteOf v k

/-- `m` is the memory of `s` after the `n` low bytes of `v` were stored at an absolute address; every other byte reads as
before (R65, R68). -/
def State.AbsStores (s : State) (a : Linear) (n : Nat) {b : Nat} (v : BitVec b) (m : Memory) : Prop :=
  (∀ k < n, m.read (s.absAddr a k) = byteOf v k) ∧ ∀ c, (∀ k < n, c ≠ s.absAddr a k) → m.read c = s.mem.read c

/-! ### Trace records (R570) -/

/-- The trace records of an access to these physical addresses in turn: one for each that is the watch address
(R64, R65, R570). -/
def State.recordsOf (s : State) (k : AccessKind) (addrs : List Nat) : List TraceRecord :=
  (addrs.filter fun a => s.watch == some a).map fun a => ⟨a, k⟩

/-- The trace records of an access to `n` bytes at `sel:off` (R66, R67, R570). -/
def State.segRecords (s : State) (k : AccessKind) (sel off : Half) (n : Nat) : List TraceRecord :=
  s.recordsOf k ((List.range n).map (s.byteAddr sel off))

/-- The trace records of an access to `n` bytes at an absolute address (R64, R65, R570). -/
def State.absRecords (s : State) (k : AccessKind) (a : Linear) (n : Nat) : List TraceRecord :=
  s.recordsOf k ((List.range n).map (s.absAddr a))

/-- Every record is of an access at the watch address; with none armed there is none (R570). -/
abbrev State.Flagged (s : State) (l : List TraceRecord) : Prop := ∀ r ∈ l, s.watch = some r.addr

/-- The trace records of entering vector `v`: three words stored, the flag image first, then the table entry read
(R520, R521, R570). -/
def State.entryRecords (s : State) (v : Byte) : List TraceRecord :=
  s.segRecords .write s.sregs.ss (s.sp - 2) 2 ++ (s.segRecords .write s.sregs.ss (s.sp - 4) 2 ++
    (s.segRecords .write s.sregs.ss (s.sp - 6) 2 ++
      s.recordsOf .read [4 * v.toNat, 4 * v.toNat + 1, 4 * v.toNat + 2, 4 * v.toNat + 3]))

/-! ### Registers as views (R20 to R23) -/

/-- The 32-bit register that a view lies in: for the byte views 4 to 7 it is register `i - 4` (R21, R22). -/
def viewHome : Width → RegNum → RegNum
  | .w8, .r4 => .r0
  | .w8, .r5 => .r1
  | .w8, .r6 => .r2
  | .w8, .r7 => .r3
  | _, i => i

/-- The lowest bit of a view in its register: 8 for AH, CH, DH, BH, else 0 (R21, R22). -/
def viewLow : Width → RegNum → Nat
  | .w8, .r4 => 8
  | .w8, .r5 => 8
  | .w8, .r6 => 8
  | .w8, .r7 => 8
  | _, _ => 0

/-- The bits of the view `reg_w[i]` (R20 to R23). -/
def Regs.view (g : Regs) (w : Width) (i : RegNum) : BitVec w.bits :=
  (g.get (viewHome w i)).extractLsb' (viewLow w i) w.bits

/-- `g'` is `g` after `reg_w[i] <- v`: the bits of the view are those of `v`, every other bit of every register is as
it was (R20 to R23). -/
def Regs.Wrote (g : Regs) (w : Width) (i : RegNum) (v : BitVec w.bits) (g' : Regs) : Prop :=
  ∀ j : RegNum, ∀ k < 32, (g'.get j).getLsbD k =
    if j = viewHome w i ∧ viewLow w i ≤ k ∧ k < viewLow w i + w.bits then v.getLsbD (k - viewLow w i)
    else (g.get j).getLsbD k

/-! ### Operands (R112) -/

/-- The operand can be accessed: a register, or a memory operand all of whose bytes are backed (R63, R112). -/
def State.operandBacked (s : State) (w : Width) : EOperand → Bool
  | .reg _ => true
  | .mem m => s.segBacked (s.eaSeg m) (s.eaOff m) w.bytes

/-- The trace records of a read or a write of an operand: none for a register (R112, R570). -/
def State.operandRecords (s : State) (k : AccessKind) (w : Width) : EOperand → List TraceRecord
  | .reg _ => []
  | .mem m => s.segRecords k (s.eaSeg m) (s.eaOff m) w.bytes

/-- The operand has the value `a` (R112). -/
def State.Reads (s : State) (w : Width) (e : EOperand) (a : BitVec w.bits) : Prop :=
  match e with
  | .reg i => s.regs.view w i = a
  | .mem m => s.Holds (s.eaSeg m) (s.eaOff m) w.bytes a

/-- `g` and `m` are the registers and the memory of `s` after `v` was written to the operand, nothing else changed
(R112). -/
def State.Puts (s : State) (w : Width) (e : EOperand) (v : BitVec w.bits) (g : Regs) (m : Memory) : Prop :=
  match e with
  | .reg i => s.regs.Wrote w i v g ∧ m = s.mem
  | .mem o => g = s.regs ∧ s.Stores (s.eaSeg o) (s.eaOff o) w.bytes v m

/-! ### Instruction bytes (R101, R104, R105) -/

/-- The bytes at CS:ip are `bs`, all of them backed (R102). -/
abbrev State.CodeAt (s : State) (bs : List Byte) : Prop :=
  ∀ k, ∀ h : k < bs.length, s.byteAddr s.sregs.cs s.ip k < s.params.ramSize ∧
    s.mem.read (s.byteAddr s.sregs.cs s.ip k) = bs[k]'h

/-- The prefixes (R104). -/
inductive Pfx where
  | opsize
  | seg (i : SReg)
deriving DecidableEq, Repr

/-- The byte of a prefix (R104). -/
def Pfx.byte : Pfx → Byte
  | .opsize => 0x66
  | .seg .es => 0x26
  | .seg .cs => 0x2E
  | .seg .ss => 0x36
  | .seg .ds => 0x3E

/-- The operand-size latch after these prefixes: a repeated 0x66 has the effect of one (R105). -/
def pfxOpsize (ps : List Pfx) : Bool := ps.contains .opsize

/-- The segment-override latch after these prefixes: the last one wins (R105). -/
def pfxSeg : List Pfx → Option SReg
  | [] => none
  | .opsize :: ps => pfxSeg ps
  | .seg i :: ps => some ((pfxSeg ps).getD i)

/-- The state in which the instruction after these prefixes executes, when `len` bytes were fetched with them: ip behind
the instruction, its start saved, the latches as the prefixes set them, the fetches traced, all else as it was (R28,
R32, R101, R570). -/
def State.fetched (s : State) (ps : List Pfx) (len : Nat) : State :=
  { s with
    ipStart := s.ip
    ip := s.ip + BitVec.ofNat 16 len
    opsizePfx := pfxOpsize ps
    segPfx := pfxSeg ps
    trace := s.trace ++ s.segRecords .read s.sregs.cs s.ip len }

/-- A run is safe up to a state when no step of it stops: neither a fault nor a refusal. -/
def SafeStep (s : State) : Prop := ∃ t, step s = .next t

end Sys2Proof.Machine
end

