-- ==== Sys2Proof/Certificates/Slice0/Obligations.lean ====
section
/-! DEFINITION. The statements for the provers, and the vocabulary they are written in: tables that say which
constructors of Instr are of one shape, and the formulas of the rules in their own words. -/

namespace Sys2Proof.Claims

open Sys2Proof.Machine

/-! ### Values and flags as the rules write them -/

/-- The low byte has an even number of 1 bits (R8). -/
def evenOnes {n : Nat} (r : BitVec n) : Bool :=
  !(r.getLsbD 0 ^^ r.getLsbD 1 ^^ r.getLsbD 2 ^^ r.getLsbD 3 ^^ r.getLsbD 4 ^^ r.getLsbD 5 ^^ r.getLsbD 6 ^^
    r.getLsbD 7)

/-- The flags ZF, SF and PF of a result (R200). -/
def resultFlags {n : Nat} (r : BitVec n) (f : Flags) : Flags :=
  { f with zf := decide (r = 0), sf := r.msb, pf := evenOnes r }

/-- The flags of the integer sum `a + b + c` (R201). -/
def sumFlags {n : Nat} (a b : BitVec n) (c : Nat) (f : Flags) : Flags :=
  let r := BitVec.ofNat n (a.toNat + b.toNat + c)
  resultFlags r { f with
    cf := decide (2 ^ n ≤ a.toNat + b.toNat + c)
    ofl := a.msb == b.msb && r.msb != a.msb
    af := (a ^^^ b ^^^ r).getLsbD 4 }

/-- The flags of the integer difference `a - b - c` (R202). -/
def differenceFlags {n : Nat} (a b : BitVec n) (c : Nat) (f : Flags) : Flags :=
  let r := BitVec.ofInt n (a.toNat - b.toNat - c)
  resultFlags r { f with
    cf := decide (a.toNat < b.toNat + c)
    ofl := a.msb != b.msb && r.msb != a.msb
    af := (a ^^^ b ^^^ r).getLsbD 4 }

/-- CF, OF and AF cleared, ZF, SF and PF of the result (R204). -/
def bitwiseFlags {n : Nat} (r : BitVec n) (f : Flags) : Flags :=
  resultFlags r { f with cf := false, ofl := false, af := false }

/-- The six status flags may differ, IF is the same (R29). -/
def SameIf (f g : Flags) : Prop := g.ifl = f.ifl

/-- An Iv immediate as an operand of width `w` (R114). -/
def immBits (w : Width) : ImmV → BitVec w.bits
  | .imm16 v => BitVec.ofNat w.bits v.toNat
  | .imm32 v => BitVec.ofNat w.bits v.toNat

/-- An Ibs immediate: the byte as a signed number (R114). -/
def immSigned (w : Width) (b : Byte) : BitVec w.bits := BitVec.ofInt w.bits b.toInt

/-- A relative target: `ip_next` plus the signed displacement, modulo 2^16 (R115). -/
def target (s : State) {n : Nat} (d : BitVec n) : Half := BitVec.ofInt 16 (s.ip.toNat + d.toInt)

/-- SP (R24). -/
def sp (s : State) : Half := s.regs.view .w16 .r4

/-- The high half of the double-width accumulator: AH, DX or EDX (R230, R232). -/
def accHigh : Width → RegNum
  | .w8 => .r4
  | _ => .r2

/-- A source operand: a register or memory operand, or a value the instruction names itself. -/
inductive Source (w : Width) where
  | operand (e : EOperand)
  | value (v : BitVec w.bits)

/-- The source can be read and has the value `b` (R112). -/
def Source.Has (s : State) {w : Width} (src : Source w) (b : BitVec w.bits) : Prop :=
  match src with
  | .operand e => s.operandBacked w e = true ∧ s.Reads w e b
  | .value v => b = v

/-- The trace records of reading the source (R112, R570). -/
def Source.records (s : State) {w : Width} : Source w → List TraceRecord
  | .operand e => s.operandRecords .read w e
  | .value _ => []

/-- The registers a base expression adds, of a memory operand (R110). -/
def eaRegs : MemOperand → List RegNum
  | .direct _ => []
  | .base b => baseRegs b
  | .disp8 b _ => baseRegs b
  | .disp16 b _ => baseRegs b
where
  /-- the table of R110, by `rm` -/
  baseRegs : Base → List RegNum
    | .bxSi => [.r3, .r6]
    | .bxDi => [.r3, .r7]
    | .bpSi => [.r5, .r6]
    | .bpDi => [.r5, .r7]
    | .si => [.r6]
    | .di => [.r7]
    | .bp => [.r5]
    | .bx => [.r3]

/-- The displacement of a memory operand (R110). -/
def eaDisp : MemOperand → Int
  | .direct d => d.toNat
  | .base _ => 0
  | .disp8 _ d => d.toInt
  | .disp16 _ d => d.toNat

/-- `t` is the state after the entry sequence for vector `v` with return offset `ret` (R520): the flag image, CS and
`ret` on the stack, IF cleared, CS:ip from the vector table as it is after the pushes, the halt ended, the accesses
traced, nothing else changed. -/
def Enters (s : State) (v : Byte) (ret : Half) (t : State) : Prop :=
  ∃ g m,
    t = { s with
      regs := g
      mem := m
      flags := { s.flags with ifl := false }
      sregs := { s.sregs with cs := m.read (4 * v.toNat + 3) ++ m.read (4 * v.toNat + 2) }
      ip := m.read (4 * v.toNat + 1) ++ m.read (4 * v.toNat)
      halted := false
      trace := s.trace ++ s.entryRecords v } ∧
    s.regs.Wrote .w16 .r4 (sp s - 6) g ∧
    s.Stores s.sregs.ss (sp s - 6) 6 (flagsImage s.flags ++ (s.sregs.cs ++ ret)) m

/-- The stack bytes and the vector table entry that the entry sequence uses are backed (R63). -/
def EntryBacked (s : State) (v : Byte) : Prop :=
  s.segBacked s.sregs.ss (sp s - 6) 6 ∧ 4 * v.toNat + 3 < s.params.ramSize

/-- An outcome without the watch address and the trace. -/
def unwatched : Outcome → Outcome
  | .next t => .next { t with watch := none, trace := [] }
  | .fault f => .fault f
  | .refused r => .refused r

/-! ### Which constructors are of one shape -/

/-- The eight two-operand instructions: operation, width, destination, source (R205). -/
inductive TwoOperand (s : State) : Instr → AluOp → (w : Width) → EOperand → Source w → Prop
  | addEbGb (e : EOperand) (g : RegNum) : TwoOperand s (.addEbGb e g) .add .w8 e (.operand (.reg g))
  | addEvGv (e : EOperand) (g : RegNum) : TwoOperand s (.addEvGv e g) .add s.vWidth e (.operand (.reg g))
  | addGbEb (g : RegNum) (e : EOperand) : TwoOperand s (.addGbEb g e) .add .w8 (.reg g) (.operand e)
  | addGvEv (g : RegNum) (e : EOperand) : TwoOperand s (.addGvEv g e) .add s.vWidth (.reg g) (.operand e)
  | addAlIb (ib : Byte) : TwoOperand s (.addAlIb ib) .add .w8 (.reg .r0) (.value ib)
  | addEaxIv (iv : ImmV) : TwoOperand s (.addEaxIv iv) .add s.vWidth (.reg .r0) (.value (immBits s.vWidth iv))
  | addEbIb (e : EOperand) (ib : Byte) : TwoOperand s (.addEbIb e ib) .add .w8 e (.value ib)
  | addEvIv (e : EOperand) (iv : ImmV) : TwoOperand s (.addEvIv e iv) .add s.vWidth e (.value (immBits s.vWidth iv))
  | addEvIbs (e : EOperand) (ib : Byte) : TwoOperand s (.addEvIbs e ib) .add s.vWidth e (.value (immSigned s.vWidth ib))
  | orEbGb (e : EOperand) (g : RegNum) : TwoOperand s (.orEbGb e g) .or .w8 e (.operand (.reg g))
  | orEvGv (e : EOperand) (g : RegNum) : TwoOperand s (.orEvGv e g) .or s.vWidth e (.operand (.reg g))
  | orGbEb (g : RegNum) (e : EOperand) : TwoOperand s (.orGbEb g e) .or .w8 (.reg g) (.operand e)
  | orGvEv (g : RegNum) (e : EOperand) : TwoOperand s (.orGvEv g e) .or s.vWidth (.reg g) (.operand e)
  | orAlIb (ib : Byte) : TwoOperand s (.orAlIb ib) .or .w8 (.reg .r0) (.value ib)
  | orEaxIv (iv : ImmV) : TwoOperand s (.orEaxIv iv) .or s.vWidth (.reg .r0) (.value (immBits s.vWidth iv))
  | orEbIb (e : EOperand) (ib : Byte) : TwoOperand s (.orEbIb e ib) .or .w8 e (.value ib)
  | orEvIv (e : EOperand) (iv : ImmV) : TwoOperand s (.orEvIv e iv) .or s.vWidth e (.value (immBits s.vWidth iv))
  | orEvIbs (e : EOperand) (ib : Byte) : TwoOperand s (.orEvIbs e ib) .or s.vWidth e (.value (immSigned s.vWidth ib))
  | adcEbGb (e : EOperand) (g : RegNum) : TwoOperand s (.adcEbGb e g) .adc .w8 e (.operand (.reg g))
  | adcEvGv (e : EOperand) (g : RegNum) : TwoOperand s (.adcEvGv e g) .adc s.vWidth e (.operand (.reg g))
  | adcGbEb (g : RegNum) (e : EOperand) : TwoOperand s (.adcGbEb g e) .adc .w8 (.reg g) (.operand e)
  | adcGvEv (g : RegNum) (e : EOperand) : TwoOperand s (.adcGvEv g e) .adc s.vWidth (.reg g) (.operand e)
  | adcAlIb (ib : Byte) : TwoOperand s (.adcAlIb ib) .adc .w8 (.reg .r0) (.value ib)
  | adcEaxIv (iv : ImmV) : TwoOperand s (.adcEaxIv iv) .adc s.vWidth (.reg .r0) (.value (immBits s.vWidth iv))
  | adcEbIb (e : EOperand) (ib : Byte) : TwoOperand s (.adcEbIb e ib) .adc .w8 e (.value ib)
  | adcEvIv (e : EOperand) (iv : ImmV) : TwoOperand s (.adcEvIv e iv) .adc s.vWidth e (.value (immBits s.vWidth iv))
  | adcEvIbs (e : EOperand) (ib : Byte) : TwoOperand s (.adcEvIbs e ib) .adc s.vWidth e (.value (immSigned s.vWidth ib))
  | sbbEbGb (e : EOperand) (g : RegNum) : TwoOperand s (.sbbEbGb e g) .sbb .w8 e (.operand (.reg g))
  | sbbEvGv (e : EOperand) (g : RegNum) : TwoOperand s (.sbbEvGv e g) .sbb s.vWidth e (.operand (.reg g))
  | sbbGbEb (g : RegNum) (e : EOperand) : TwoOperand s (.sbbGbEb g e) .sbb .w8 (.reg g) (.operand e)
  | sbbGvEv (g : RegNum) (e : EOperand) : TwoOperand s (.sbbGvEv g e) .sbb s.vWidth (.reg g) (.operand e)
  | sbbAlIb (ib : Byte) : TwoOperand s (.sbbAlIb ib) .sbb .w8 (.reg .r0) (.value ib)
  | sbbEaxIv (iv : ImmV) : TwoOperand s (.sbbEaxIv iv) .sbb s.vWidth (.reg .r0) (.value (immBits s.vWidth iv))
  | sbbEbIb (e : EOperand) (ib : Byte) : TwoOperand s (.sbbEbIb e ib) .sbb .w8 e (.value ib)
  | sbbEvIv (e : EOperand) (iv : ImmV) : TwoOperand s (.sbbEvIv e iv) .sbb s.vWidth e (.value (immBits s.vWidth iv))
  | sbbEvIbs (e : EOperand) (ib : Byte) : TwoOperand s (.sbbEvIbs e ib) .sbb s.vWidth e (.value (immSigned s.vWidth ib))
  | andEbGb (e : EOperand) (g : RegNum) : TwoOperand s (.andEbGb e g) .and .w8 e (.operand (.reg g))
  | andEvGv (e : EOperand) (g : RegNum) : TwoOperand s (.andEvGv e g) .and s.vWidth e (.operand (.reg g))
  | andGbEb (g : RegNum) (e : EOperand) : TwoOperand s (.andGbEb g e) .and .w8 (.reg g) (.operand e)
  | andGvEv (g : RegNum) (e : EOperand) : TwoOperand s (.andGvEv g e) .and s.vWidth (.reg g) (.operand e)
  | andAlIb (ib : Byte) : TwoOperand s (.andAlIb ib) .and .w8 (.reg .r0) (.value ib)
  | andEaxIv (iv : ImmV) : TwoOperand s (.andEaxIv iv) .and s.vWidth (.reg .r0) (.value (immBits s.vWidth iv))
  | andEbIb (e : EOperand) (ib : Byte) : TwoOperand s (.andEbIb e ib) .and .w8 e (.value ib)
  | andEvIv (e : EOperand) (iv : ImmV) : TwoOperand s (.andEvIv e iv) .and s.vWidth e (.value (immBits s.vWidth iv))
  | andEvIbs (e : EOperand) (ib : Byte) : TwoOperand s (.andEvIbs e ib) .and s.vWidth e (.value (immSigned s.vWidth ib))
  | subEbGb (e : EOperand) (g : RegNum) : TwoOperand s (.subEbGb e g) .sub .w8 e (.operand (.reg g))
  | subEvGv (e : EOperand) (g : RegNum) : TwoOperand s (.subEvGv e g) .sub s.vWidth e (.operand (.reg g))
  | subGbEb (g : RegNum) (e : EOperand) : TwoOperand s (.subGbEb g e) .sub .w8 (.reg g) (.operand e)
  | subGvEv (g : RegNum) (e : EOperand) : TwoOperand s (.subGvEv g e) .sub s.vWidth (.reg g) (.operand e)
  | subAlIb (ib : Byte) : TwoOperand s (.subAlIb ib) .sub .w8 (.reg .r0) (.value ib)
  | subEaxIv (iv : ImmV) : TwoOperand s (.subEaxIv iv) .sub s.vWidth (.reg .r0) (.value (immBits s.vWidth iv))
  | subEbIb (e : EOperand) (ib : Byte) : TwoOperand s (.subEbIb e ib) .sub .w8 e (.value ib)
  | subEvIv (e : EOperand) (iv : ImmV) : TwoOperand s (.subEvIv e iv) .sub s.vWidth e (.value (immBits s.vWidth iv))
  | subEvIbs (e : EOperand) (ib : Byte) : TwoOperand s (.subEvIbs e ib) .sub s.vWidth e (.value (immSigned s.vWidth ib))
  | xorEbGb (e : EOperand) (g : RegNum) : TwoOperand s (.xorEbGb e g) .xor .w8 e (.operand (.reg g))
  | xorEvGv (e : EOperand) (g : RegNum) : TwoOperand s (.xorEvGv e g) .xor s.vWidth e (.operand (.reg g))
  | xorGbEb (g : RegNum) (e : EOperand) : TwoOperand s (.xorGbEb g e) .xor .w8 (.reg g) (.operand e)
  | xorGvEv (g : RegNum) (e : EOperand) : TwoOperand s (.xorGvEv g e) .xor s.vWidth (.reg g) (.operand e)
  | xorAlIb (ib : Byte) : TwoOperand s (.xorAlIb ib) .xor .w8 (.reg .r0) (.value ib)
  | xorEaxIv (iv : ImmV) : TwoOperand s (.xorEaxIv iv) .xor s.vWidth (.reg .r0) (.value (immBits s.vWidth iv))
  | xorEbIb (e : EOperand) (ib : Byte) : TwoOperand s (.xorEbIb e ib) .xor .w8 e (.value ib)
  | xorEvIv (e : EOperand) (iv : ImmV) : TwoOperand s (.xorEvIv e iv) .xor s.vWidth e (.value (immBits s.vWidth iv))
  | xorEvIbs (e : EOperand) (ib : Byte) : TwoOperand s (.xorEvIbs e ib) .xor s.vWidth e (.value (immSigned s.vWidth ib))
  | cmpEbGb (e : EOperand) (g : RegNum) : TwoOperand s (.cmpEbGb e g) .cmp .w8 e (.operand (.reg g))
  | cmpEvGv (e : EOperand) (g : RegNum) : TwoOperand s (.cmpEvGv e g) .cmp s.vWidth e (.operand (.reg g))
  | cmpGbEb (g : RegNum) (e : EOperand) : TwoOperand s (.cmpGbEb g e) .cmp .w8 (.reg g) (.operand e)
  | cmpGvEv (g : RegNum) (e : EOperand) : TwoOperand s (.cmpGvEv g e) .cmp s.vWidth (.reg g) (.operand e)
  | cmpAlIb (ib : Byte) : TwoOperand s (.cmpAlIb ib) .cmp .w8 (.reg .r0) (.value ib)
  | cmpEaxIv (iv : ImmV) : TwoOperand s (.cmpEaxIv iv) .cmp s.vWidth (.reg .r0) (.value (immBits s.vWidth iv))
  | cmpEbIb (e : EOperand) (ib : Byte) : TwoOperand s (.cmpEbIb e ib) .cmp .w8 e (.value ib)
  | cmpEvIv (e : EOperand) (iv : ImmV) : TwoOperand s (.cmpEvIv e iv) .cmp s.vWidth e (.value (immBits s.vWidth iv))
  | cmpEvIbs (e : EOperand) (ib : Byte) : TwoOperand s (.cmpEvIbs e ib) .cmp s.vWidth e (.value (immSigned s.vWidth ib))

/-- TEST: width, first operand, second operand (R218). -/
inductive Tests (s : State) : Instr → (w : Width) → EOperand → Source w → Prop
  | testEbGb (e : EOperand) (g : RegNum) : Tests s (.testEbGb e g) .w8 e (.operand (.reg g))
  | testEvGv (e : EOperand) (g : RegNum) : Tests s (.testEvGv e g) s.vWidth e (.operand (.reg g))
  | testAlIb (ib : Byte) : Tests s (.testAlIb ib) .w8 (.reg .r0) (.value ib)
  | testEaxIv (iv : ImmV) : Tests s (.testEaxIv iv) s.vWidth (.reg .r0) (.value (immBits s.vWidth iv))
  | testEbIb (e : EOperand) (ib : Byte) : Tests s (.testEbIb e ib) .w8 e (.value ib)
  | testEvIv (e : EOperand) (iv : ImmV) : Tests s (.testEvIv e iv) s.vWidth e (.value (immBits s.vWidth iv))

/-- INC (`true`) and DEC (`false`): width, operand (R220, R221). -/
inductive IncDec (s : State) : Instr → Bool → Width → EOperand → Prop
  | incR (r : RegNum) : IncDec s (.incR r) true s.vWidth (.reg r)
  | decR (r : RegNum) : IncDec s (.decR r) false s.vWidth (.reg r)
  | incEb (e : EOperand) : IncDec s (.incEb e) true .w8 e
  | decEb (e : EOperand) : IncDec s (.decEb e) false .w8 e
  | incEv (e : EOperand) : IncDec s (.incEv e) true s.vWidth e
  | decEv (e : EOperand) : IncDec s (.decEv e) false s.vWidth e

/-- MUL (`false`) and IMUL (`true`): width, operand (R230, R231). -/
inductive Multiplies (s : State) : Instr → Bool → Width → EOperand → Prop
  | mulEb (e : EOperand) : Multiplies s (.mulEb e) false .w8 e
  | mulEv (e : EOperand) : Multiplies s (.mulEv e) false s.vWidth e
  | imulEb (e : EOperand) : Multiplies s (.imulEb e) true .w8 e
  | imulEv (e : EOperand) : Multiplies s (.imulEv e) true s.vWidth e

/-- DIV (`false`) and IDIV (`true`): width, operand (R232, R233). -/
inductive Divides (s : State) : Instr → Bool → Width → EOperand → Prop
  | divEb (e : EOperand) : Divides s (.divEb e) false .w8 e
  | divEv (e : EOperand) : Divides s (.divEv e) false s.vWidth e
  | idivEb (e : EOperand) : Divides s (.idivEb e) true .w8 e
  | idivEv (e : EOperand) : Divides s (.idivEv e) true s.vWidth e

/-- Group 2: operation, width, operand, count source (R260). -/
inductive Shifts (s : State) : Instr → ShiftOp → Width → EOperand → Byte → Prop
  | rolEbIb (e : EOperand) (ib : Byte) : Shifts s (.rolEbIb e ib) .rol .w8 e ib
  | rorEbIb (e : EOperand) (ib : Byte) : Shifts s (.rorEbIb e ib) .ror .w8 e ib
  | rclEbIb (e : EOperand) (ib : Byte) : Shifts s (.rclEbIb e ib) .rcl .w8 e ib
  | rcrEbIb (e : EOperand) (ib : Byte) : Shifts s (.rcrEbIb e ib) .rcr .w8 e ib
  | shlEbIb (e : EOperand) (ib : Byte) : Shifts s (.shlEbIb e ib) .shl .w8 e ib
  | shrEbIb (e : EOperand) (ib : Byte) : Shifts s (.shrEbIb e ib) .shr .w8 e ib
  | sarEbIb (e : EOperand) (ib : Byte) : Shifts s (.sarEbIb e ib) .sar .w8 e ib
  | rolEvIb (e : EOperand) (ib : Byte) : Shifts s (.rolEvIb e ib) .rol s.vWidth e ib
  | rorEvIb (e : EOperand) (ib : Byte) : Shifts s (.rorEvIb e ib) .ror s.vWidth e ib
  | rclEvIb (e : EOperand) (ib : Byte) : Shifts s (.rclEvIb e ib) .rcl s.vWidth e ib
  | rcrEvIb (e : EOperand) (ib : Byte) : Shifts s (.rcrEvIb e ib) .rcr s.vWidth e ib
  | shlEvIb (e : EOperand) (ib : Byte) : Shifts s (.shlEvIb e ib) .shl s.vWidth e ib
  | shrEvIb (e : EOperand) (ib : Byte) : Shifts s (.shrEvIb e ib) .shr s.vWidth e ib
  | sarEvIb (e : EOperand) (ib : Byte) : Shifts s (.sarEvIb e ib) .sar s.vWidth e ib
  | rolEbOne (e : EOperand) : Shifts s (.rolEbOne e) .rol .w8 e 1
  | rorEbOne (e : EOperand) : Shifts s (.rorEbOne e) .ror .w8 e 1
  | rclEbOne (e : EOperand) : Shifts s (.rclEbOne e) .rcl .w8 e 1
  | rcrEbOne (e : EOperand) : Shifts s (.rcrEbOne e) .rcr .w8 e 1
  | shlEbOne (e : EOperand) : Shifts s (.shlEbOne e) .shl .w8 e 1
  | shrEbOne (e : EOperand) : Shifts s (.shrEbOne e) .shr .w8 e 1
  | sarEbOne (e : EOperand) : Shifts s (.sarEbOne e) .sar .w8 e 1
  | rolEvOne (e : EOperand) : Shifts s (.rolEvOne e) .rol s.vWidth e 1
  | rorEvOne (e : EOperand) : Shifts s (.rorEvOne e) .ror s.vWidth e 1
  | rclEvOne (e : EOperand) : Shifts s (.rclEvOne e) .rcl s.vWidth e 1
  | rcrEvOne (e : EOperand) : Shifts s (.rcrEvOne e) .rcr s.vWidth e 1
  | shlEvOne (e : EOperand) : Shifts s (.shlEvOne e) .shl s.vWidth e 1
  | shrEvOne (e : EOperand) : Shifts s (.shrEvOne e) .shr s.vWidth e 1
  | sarEvOne (e : EOperand) : Shifts s (.sarEvOne e) .sar s.vWidth e 1
  | rolEbCl (e : EOperand) : Shifts s (.rolEbCl e) .rol .w8 e (s.regs.view .w8 .r1)
  | rorEbCl (e : EOperand) : Shifts s (.rorEbCl e) .ror .w8 e (s.regs.view .w8 .r1)
  | rclEbCl (e : EOperand) : Shifts s (.rclEbCl e) .rcl .w8 e (s.regs.view .w8 .r1)
  | rcrEbCl (e : EOperand) : Shifts s (.rcrEbCl e) .rcr .w8 e (s.regs.view .w8 .r1)
  | shlEbCl (e : EOperand) : Shifts s (.shlEbCl e) .shl .w8 e (s.regs.view .w8 .r1)
  | shrEbCl (e : EOperand) : Shifts s (.shrEbCl e) .shr .w8 e (s.regs.view .w8 .r1)
  | sarEbCl (e : EOperand) : Shifts s (.sarEbCl e) .sar .w8 e (s.regs.view .w8 .r1)
  | rolEvCl (e : EOperand) : Shifts s (.rolEvCl e) .rol s.vWidth e (s.regs.view .w8 .r1)
  | rorEvCl (e : EOperand) : Shifts s (.rorEvCl e) .ror s.vWidth e (s.regs.view .w8 .r1)
  | rclEvCl (e : EOperand) : Shifts s (.rclEvCl e) .rcl s.vWidth e (s.regs.view .w8 .r1)
  | rcrEvCl (e : EOperand) : Shifts s (.rcrEvCl e) .rcr s.vWidth e (s.regs.view .w8 .r1)
  | shlEvCl (e : EOperand) : Shifts s (.shlEvCl e) .shl s.vWidth e (s.regs.view .w8 .r1)
  | shrEvCl (e : EOperand) : Shifts s (.shrEvCl e) .shr s.vWidth e (s.regs.view .w8 .r1)
  | sarEvCl (e : EOperand) : Shifts s (.sarEvCl e) .sar s.vWidth e (s.regs.view .w8 .r1)

/-- The moves that write a register or memory: width, destination, source (R150 to R156). -/
inductive Moves (s : State) : Instr → (w : Width) → EOperand → Source w → Prop
  | movEbGb (e : EOperand) (g : RegNum) : Moves s (.movEbGb e g) .w8 e (.operand (.reg g))
  | movEvGv (e : EOperand) (g : RegNum) : Moves s (.movEvGv e g) s.vWidth e (.operand (.reg g))
  | movGbEb (g : RegNum) (e : EOperand) : Moves s (.movGbEb g e) .w8 (.reg g) (.operand e)
  | movGvEv (g : RegNum) (e : EOperand) : Moves s (.movGvEv g e) s.vWidth (.reg g) (.operand e)
  | movEwSw (e : EOperand) (sr : SReg) : Moves s (.movEwSw e sr) .w16 e (.value (s.sreg sr))
  | movAlOb (off : Half) : Moves s (.movAlOb off) .w8 (.reg .r0) (.operand (.mem (.direct off)))
  | movEaxOv (off : Half) : Moves s (.movEaxOv off) s.vWidth (.reg .r0) (.operand (.mem (.direct off)))
  | movObAl (off : Half) : Moves s (.movObAl off) .w8 (.mem (.direct off)) (.operand (.reg .r0))
  | movOvEax (off : Half) : Moves s (.movOvEax off) s.vWidth (.mem (.direct off)) (.operand (.reg .r0))
  | movR8Ib (r : RegNum) (ib : Byte) : Moves s (.movR8Ib r ib) .w8 (.reg r) (.value ib)
  | movRIv (r : RegNum) (iv : ImmV) : Moves s (.movRIv r iv) s.vWidth (.reg r) (.value (immBits s.vWidth iv))
  | movEbIb (e : EOperand) (ib : Byte) : Moves s (.movEbIb e ib) .w8 e (.value ib)
  | movEvIv (e : EOperand) (iv : ImmV) : Moves s (.movEvIv e iv) s.vWidth e (.value (immBits s.vWidth iv))

/-- The pushes: width, value (R302, R304, R306, R308). -/
inductive Pushes (s : State) : Instr → (w : Width) → Source w → Prop
  | pushEs : Pushes s .pushEs .w16 (.value s.sregs.es)
  | pushCs : Pushes s .pushCs .w16 (.value s.sregs.cs)
  | pushSs : Pushes s .pushSs .w16 (.value s.sregs.ss)
  | pushDs : Pushes s .pushDs .w16 (.value s.sregs.ds)
  | pushR (r : RegNum) : Pushes s (.pushR r) s.vWidth (.operand (.reg r))
  | pushIv (iv : ImmV) : Pushes s (.pushIv iv) s.vWidth (.value (immBits s.vWidth iv))
  | pushIbs (ib : Byte) : Pushes s (.pushIbs ib) s.vWidth (.value (immSigned s.vWidth ib))
  | pushf : Pushes s .pushf .w16 (.value (flagsImage s.flags))
  | pushEv (e : EOperand) : Pushes s (.pushEv e) s.vWidth (.operand e)

/-- The conditional jumps: when taken, displacement (R120, R334 to R349). -/
inductive Conditional (s : State) : Instr → Prop → Byte → Prop
  | jo (rel : Byte) : Conditional s (.jo rel) (s.flags.ofl = true) rel
  | jno (rel : Byte) : Conditional s (.jno rel) (s.flags.ofl = false) rel
  | jb (rel : Byte) : Conditional s (.jb rel) (s.flags.cf = true) rel
  | jae (rel : Byte) : Conditional s (.jae rel) (s.flags.cf = false) rel
  | je (rel : Byte) : Conditional s (.je rel) (s.flags.zf = true) rel
  | jne (rel : Byte) : Conditional s (.jne rel) (s.flags.zf = false) rel
  | jbe (rel : Byte) : Conditional s (.jbe rel) (s.flags.cf = true ∨ s.flags.zf = true) rel
  | ja (rel : Byte) : Conditional s (.ja rel) (s.flags.cf = false ∧ s.flags.zf = false) rel
  | js (rel : Byte) : Conditional s (.js rel) (s.flags.sf = true) rel
  | jns (rel : Byte) : Conditional s (.jns rel) (s.flags.sf = false) rel
  | jp (rel : Byte) : Conditional s (.jp rel) (s.flags.pf = true) rel
  | jnp (rel : Byte) : Conditional s (.jnp rel) (s.flags.pf = false) rel
  | jl (rel : Byte) : Conditional s (.jl rel) (s.flags.sf ≠ s.flags.ofl) rel
  | jge (rel : Byte) : Conditional s (.jge rel) (s.flags.sf = s.flags.ofl) rel
  | jle (rel : Byte) : Conditional s (.jle rel) (s.flags.zf = true ∨ s.flags.sf ≠ s.flags.ofl) rel
  | jg (rel : Byte) : Conditional s (.jg rel) (s.flags.zf = false ∧ s.flags.sf = s.flags.ofl) rel

/-- IN: width, port (R400, R401). -/
inductive ReadsPort (s : State) : Instr → Width → Half → Prop
  | inAlIb (ib : Byte) : ReadsPort s (.inAlIb ib) .w8 (BitVec.ofNat 16 ib.toNat)
  | inEaxIb (ib : Byte) : ReadsPort s (.inEaxIb ib) s.vWidth (BitVec.ofNat 16 ib.toNat)
  | inAlDx : ReadsPort s .inAlDx .w8 (s.regs.view .w16 .r2)
  | inEaxDx : ReadsPort s .inEaxDx s.vWidth (s.regs.view .w16 .r2)

/-- OUT: width, port (R402, R403). -/
inductive WritesPort (s : State) : Instr → Width → Half → Prop
  | outIbAl (ib : Byte) : WritesPort s (.outIbAl ib) .w8 (BitVec.ofNat 16 ib.toNat)
  | outIbEax (ib : Byte) : WritesPort s (.outIbEax ib) s.vWidth (BitVec.ofNat 16 ib.toNat)
  | outDxAl : WritesPort s .outDxAl .w8 (s.regs.view .w16 .r2)
  | outDxEax : WritesPort s .outDxEax s.vWidth (s.regs.view .w16 .r2)

/-- The rows of class `fault`: the operand-size prefix before them is a DecodeFault (R107). -/
inductive FaultClass : Instr → Prop
  | pushEs : FaultClass .pushEs
  | pushCs : FaultClass .pushCs
  | pushSs : FaultClass .pushSs
  | pushDs : FaultClass .pushDs
  | popEs : FaultClass .popEs
  | popSs : FaultClass .popSs
  | popDs : FaultClass .popDs
  | jo (rel : Byte) : FaultClass (.jo rel)
  | jno (rel : Byte) : FaultClass (.jno rel)
  | jb (rel : Byte) : FaultClass (.jb rel)
  | jae (rel : Byte) : FaultClass (.jae rel)
  | je (rel : Byte) : FaultClass (.je rel)
  | jne (rel : Byte) : FaultClass (.jne rel)
  | jbe (rel : Byte) : FaultClass (.jbe rel)
  | ja (rel : Byte) : FaultClass (.ja rel)
  | js (rel : Byte) : FaultClass (.js rel)
  | jns (rel : Byte) : FaultClass (.jns rel)
  | jp (rel : Byte) : FaultClass (.jp rel)
  | jnp (rel : Byte) : FaultClass (.jnp rel)
  | jl (rel : Byte) : FaultClass (.jl rel)
  | jge (rel : Byte) : FaultClass (.jge rel)
  | jle (rel : Byte) : FaultClass (.jle rel)
  | jg (rel : Byte) : FaultClass (.jg rel)
  | movEwSw (e : EOperand) (sr : SReg) : FaultClass (.movEwSw e sr)
  | movEsEw (e : EOperand) : FaultClass (.movEsEw e)
  | movSsEw (e : EOperand) : FaultClass (.movSsEw e)
  | movDsEw (e : EOperand) : FaultClass (.movDsEw e)
  | callAp (off : Half) (sel : Half) : FaultClass (.callAp off sel)
  | pushf : FaultClass .pushf
  | popf : FaultClass .popf
  | retIw (iw : Half) : FaultClass (.retIw iw)
  | ret : FaultClass .ret
  | retfIw (iw : Half) : FaultClass (.retfIw iw)
  | retf : FaultClass .retf
  | int3 : FaultClass .int3
  | intIb (ib : Byte) : FaultClass (.intIb ib)
  | into : FaultClass .into
  | iret : FaultClass .iret
  | loopne (rel : Byte) : FaultClass (.loopne rel)
  | loope (rel : Byte) : FaultClass (.loope rel)
  | loop (rel : Byte) : FaultClass (.loop rel)
  | jcxz (rel : Byte) : FaultClass (.jcxz rel)
  | callJv (rel : Half) : FaultClass (.callJv rel)
  | jmpJv (rel : Half) : FaultClass (.jmpJv rel)
  | jmpAp (off : Half) (sel : Half) : FaultClass (.jmpAp off sel)
  | jmpJb (rel : Byte) : FaultClass (.jmpJb rel)
  | callEv (e : EOperand) : FaultClass (.callEv e)
  | callMp (m : MemOperand) : FaultClass (.callMp m)
  | jmpEv (e : EOperand) : FaultClass (.jmpEv e)
  | jmpMp (m : MemOperand) : FaultClass (.jmpMp m)

/-- The instructions that leave every flag unchanged (R31), the prefix bytes with them. -/
inductive KeepsFlags : Instr → Prop
  | pushEs : KeepsFlags .pushEs
  | pushCs : KeepsFlags .pushCs
  | pushSs : KeepsFlags .pushSs
  | pushDs : KeepsFlags .pushDs
  | popEs : KeepsFlags .popEs
  | popSs : KeepsFlags .popSs
  | popDs : KeepsFlags .popDs
  | prefixEs : KeepsFlags .prefixEs
  | prefixCs : KeepsFlags .prefixCs
  | prefixSs : KeepsFlags .prefixSs
  | prefixDs : KeepsFlags .prefixDs
  | prefixOpsize : KeepsFlags .prefixOpsize
  | pushR (r : RegNum) : KeepsFlags (.pushR r)
  | popR (r : RegNum) : KeepsFlags (.popR r)
  | pushIv (iv : ImmV) : KeepsFlags (.pushIv iv)
  | pushIbs (ib : Byte) : KeepsFlags (.pushIbs ib)
  | jo (rel : Byte) : KeepsFlags (.jo rel)
  | jno (rel : Byte) : KeepsFlags (.jno rel)
  | jb (rel : Byte) : KeepsFlags (.jb rel)
  | jae (rel : Byte) : KeepsFlags (.jae rel)
  | je (rel : Byte) : KeepsFlags (.je rel)
  | jne (rel : Byte) : KeepsFlags (.jne rel)
  | jbe (rel : Byte) : KeepsFlags (.jbe rel)
  | ja (rel : Byte) : KeepsFlags (.ja rel)
  | js (rel : Byte) : KeepsFlags (.js rel)
  | jns (rel : Byte) : KeepsFlags (.jns rel)
  | jp (rel : Byte) : KeepsFlags (.jp rel)
  | jnp (rel : Byte) : KeepsFlags (.jnp rel)
  | jl (rel : Byte) : KeepsFlags (.jl rel)
  | jge (rel : Byte) : KeepsFlags (.jge rel)
  | jle (rel : Byte) : KeepsFlags (.jle rel)
  | jg (rel : Byte) : KeepsFlags (.jg rel)
  | xchgEbGb (e : EOperand) (g : RegNum) : KeepsFlags (.xchgEbGb e g)
  | xchgEvGv (e : EOperand) (g : RegNum) : KeepsFlags (.xchgEvGv e g)
  | movEbGb (e : EOperand) (g : RegNum) : KeepsFlags (.movEbGb e g)
  | movEvGv (e : EOperand) (g : RegNum) : KeepsFlags (.movEvGv e g)
  | movGbEb (g : RegNum) (e : EOperand) : KeepsFlags (.movGbEb g e)
  | movGvEv (g : RegNum) (e : EOperand) : KeepsFlags (.movGvEv g e)
  | movEwSw (e : EOperand) (sr : SReg) : KeepsFlags (.movEwSw e sr)
  | movEsEw (e : EOperand) : KeepsFlags (.movEsEw e)
  | movSsEw (e : EOperand) : KeepsFlags (.movSsEw e)
  | movDsEw (e : EOperand) : KeepsFlags (.movDsEw e)
  | leaGvM (g : RegNum) (m : MemOperand) : KeepsFlags (.leaGvM g m)
  | popEv (e : EOperand) : KeepsFlags (.popEv e)
  | nop : KeepsFlags .nop
  | xchgEaxEcx : KeepsFlags .xchgEaxEcx
  | xchgEaxEdx : KeepsFlags .xchgEaxEdx
  | xchgEaxEbx : KeepsFlags .xchgEaxEbx
  | xchgEaxEsp : KeepsFlags .xchgEaxEsp
  | xchgEaxEbp : KeepsFlags .xchgEaxEbp
  | xchgEaxEsi : KeepsFlags .xchgEaxEsi
  | xchgEaxEdi : KeepsFlags .xchgEaxEdi
  | cbw : KeepsFlags .cbw
  | cwd : KeepsFlags .cwd
  | callAp (off : Half) (sel : Half) : KeepsFlags (.callAp off sel)
  | pushf : KeepsFlags .pushf
  | lahf : KeepsFlags .lahf
  | movAlOb (off : Half) : KeepsFlags (.movAlOb off)
  | movEaxOv (off : Half) : KeepsFlags (.movEaxOv off)
  | movObAl (off : Half) : KeepsFlags (.movObAl off)
  | movOvEax (off : Half) : KeepsFlags (.movOvEax off)
  | movR8Ib (r : RegNum) (ib : Byte) : KeepsFlags (.movR8Ib r ib)
  | movRIv (r : RegNum) (iv : ImmV) : KeepsFlags (.movRIv r iv)
  | retIw (iw : Half) : KeepsFlags (.retIw iw)
  | ret : KeepsFlags .ret
  | movEbIb (e : EOperand) (ib : Byte) : KeepsFlags (.movEbIb e ib)
  | movEvIv (e : EOperand) (iv : ImmV) : KeepsFlags (.movEvIv e iv)
  | retfIw (iw : Half) : KeepsFlags (.retfIw iw)
  | retf : KeepsFlags .retf
  | xlat : KeepsFlags .xlat
  | loopne (rel : Byte) : KeepsFlags (.loopne rel)
  | loope (rel : Byte) : KeepsFlags (.loope rel)
  | loop (rel : Byte) : KeepsFlags (.loop rel)
  | jcxz (rel : Byte) : KeepsFlags (.jcxz rel)
  | inAlIb (ib : Byte) : KeepsFlags (.inAlIb ib)
  | inEaxIb (ib : Byte) : KeepsFlags (.inEaxIb ib)
  | outIbAl (ib : Byte) : KeepsFlags (.outIbAl ib)
  | outIbEax (ib : Byte) : KeepsFlags (.outIbEax ib)
  | callJv (rel : Half) : KeepsFlags (.callJv rel)
  | jmpJv (rel : Half) : KeepsFlags (.jmpJv rel)
  | jmpAp (off : Half) (sel : Half) : KeepsFlags (.jmpAp off sel)
  | jmpJb (rel : Byte) : KeepsFlags (.jmpJb rel)
  | inAlDx : KeepsFlags .inAlDx
  | inEaxDx : KeepsFlags .inEaxDx
  | outDxAl : KeepsFlags .outDxAl
  | outDxEax : KeepsFlags .outDxEax
  | hlt : KeepsFlags .hlt
  | notEb (e : EOperand) : KeepsFlags (.notEb e)
  | notEv (e : EOperand) : KeepsFlags (.notEv e)
  | callEv (e : EOperand) : KeepsFlags (.callEv e)
  | callMp (m : MemOperand) : KeepsFlags (.callMp m)
  | jmpEv (e : EOperand) : KeepsFlags (.jmpEv e)
  | jmpMp (m : MemOperand) : KeepsFlags (.jmpMp m)
  | pushEv (e : EOperand) : KeepsFlags (.pushEv e)

/-- The instructions that can write CS: far transfers, and the entries of interrupts and of the divide error (R26). -/
inductive WritesCs : Instr → Prop
  | jmpAp (off sel : Half) : WritesCs (.jmpAp off sel)
  | jmpMp (m : MemOperand) : WritesCs (.jmpMp m)
  | callAp (off sel : Half) : WritesCs (.callAp off sel)
  | callMp (m : MemOperand) : WritesCs (.callMp m)
  | retf : WritesCs .retf
  | retfIw (iw : Half) : WritesCs (.retfIw iw)
  | iret : WritesCs .iret
  | int3 : WritesCs .int3
  | intIb (ib : Byte) : WritesCs (.intIb ib)
  | into : WritesCs .into
  | divEb (e : EOperand) : WritesCs (.divEb e)
  | divEv (e : EOperand) : WritesCs (.divEv e)
  | idivEb (e : EOperand) : WritesCs (.idivEb e)
  | idivEv (e : EOperand) : WritesCs (.idivEv e)

/-- The instructions that can write IF (R31): CLI, STI, POPF, IRET and those that enter an interrupt. -/
inductive WritesIf : Instr → Prop
  | cli : WritesIf .cli
  | sti : WritesIf .sti
  | popf : WritesIf .popf
  | iret : WritesIf .iret
  | int3 : WritesIf .int3
  | intIb (ib : Byte) : WritesIf (.intIb ib)
  | into : WritesIf .into
  | divEb (e : EOperand) : WritesIf (.divEb e)
  | divEv (e : EOperand) : WritesIf (.divEv e)
  | idivEb (e : EOperand) : WritesIf (.idivEb e)
  | idivEv (e : EOperand) : WritesIf (.idivEv e)

/-- Which of ES, SS and DS a move or a pop into a segment register writes (R26). -/
def loadsSegment : Instr → Option SReg
  | .movEsEw _ => some .es
  | .movSsEw _ => some .ss
  | .movDsEw _ => some .ds
  | .popEs => some .es
  | .popSs => some .ss
  | .popDs => some .ds
  | _ => none

/-! ### Encodings that are no instruction (R131) -/

/-- The opcode bytes with no row (R131). -/
def unassigned : List Byte :=
  [0x0F, 0x27, 0x2F, 0x37, 0x3F, 0x60, 0x61, 0x62, 0x63, 0x64, 0x65, 0x67, 0x69, 0x6B, 0x6C, 0x6D, 0x6E, 0x6F, 0x82,
    0x9B, 0xA4, 0xA5, 0xA6, 0xA7, 0xAA, 0xAB, 0xAC, 0xAD, 0xAE, 0xAF, 0xC4, 0xC5, 0xC8, 0xC9, 0xD4, 0xD5, 0xD6, 0xD8,
    0xD9, 0xDA, 0xDB, 0xDC, 0xDD, 0xDE, 0xDF, 0xF0, 0xF1, 0xF2, 0xF3, 0xFC, 0xFD]

/-- The group members marked none: opcode bytes with the ModRM.reg values (R121, R131). -/
def noMember : List (List Byte × List RegNum) :=
  [([0x8F, 0xC6, 0xC7], [.r1, .r2, .r3, .r4, .r5, .r6, .r7]),
    ([0xC0, 0xC1, 0xD0, 0xD1, 0xD2, 0xD3], [.r6]),
    ([0xF6, 0xF7], [.r1]),
    ([0xFE], [.r2, .r3, .r4, .r5, .r6, .r7]),
    ([0xFF], [.r7])]

/-- The opcode bytes and ModRM.reg values that need a memory operand (R131): LEA with any register, CALL Mp, JMP Mp. -/
def memoryOnly : List (List Byte × List RegNum) :=
  [([0x8D], [.r0, .r1, .r2, .r3, .r4, .r5, .r6, .r7]), ([0xFF], [.r3, .r5])]

/-- The opcode bytes and ModRM.reg values that name no segment register, or CS as a destination (R131). -/
def noSegment : List (List Byte × List RegNum) :=
  [([0x8C, 0x8E], [.r4, .r5, .r6, .r7]), ([0x8E], [.r1])]

end Sys2Proof.Claims

open Sys2Proof Sys2Proof.Machine

/-! ### Reset -/

/-- What construction leaves, by the table of R42: CS:ip at the reset vector 0xF000:0xFFF0 (the first fetch at physical
0xFFFF0), every flag 0 (image 0x0002), no prefix latched, not halted, no line held or pending, no watch address, the
gate at `A20_RESET`, every port unowned but for the devices' bindings. The values of general registers, ES, SS and DS are
not stated (R42 leaves them open; log 4). -/
def Obligations.ResetLeavesTheStatedValues : Prop :=
  State.reset.sregs.cs = 0xF000 ∧ State.reset.ip = 0xFFF0 ∧
  State.reset.phys (linear State.reset.sregs.cs State.reset.ip) = 0xFFFF0 ∧
  flagsImage State.reset.flags = 0x0002 ∧ State.reset.flags.ifl = false ∧
  State.reset.opsizePfx = false ∧ State.reset.segPfx = none ∧ State.reset.halted = false ∧
  State.reset.pending = [] ∧ State.reset.watch = none ∧
  State.reset.a20 = State.reset.params.a20Reset ∧
  State.reset.construct = State.reset ∧
  (State.reset.params.devices = [] → State.reset.owner = [] ∧ State.reset.lineOf = [])

/-- The invariant holds right after reset. -/
def Obligations.ResetMeetsTheInvariant : Prop := State.reset.Inv

/-- Every step keeps the invariant: memory in canonical form with nothing beyond RAM_SIZE, at most one owner per port,
one line per device and no line twice, only held lines raised (R35, R37, R38, R420, R531, R532). -/
def Obligations.EveryStepKeepsTheInvariant : Prop :=
  ∀ s t : State, s.Inv → step s = .next t → t.Inv

/-- A system reset (R600 to R603): acted on between two cycles, before the boundary check; CS:ip at the reset vector, flags,
latches and halt cleared, nothing pending, the gate at `A20_RESET`; memory and the watch address kept; every line released
and then given out anew to the devices that ask for one, in `RESET_ORDER`; every device re-initialised. That the general
registers, ES, SS and DS are kept is the model's choice of the two R601 allows (log 9), and so is that no device raises its
line in the pass (log 29). -/
def Obligations.SystemResetRestartsTheCpu : Prop :=
  (∀ (s : State) (ps : List (List Input)), s.phases = [.systemReset] :: ps →
    step s = cycle ({ s with phases := ps } : State).systemReset) ∧
  ∀ s : State, ∃ owner,
    s.systemReset = { s with
      sregs := { s.sregs with cs := s.params.resetCs }
      ip := s.params.resetIp
      flags := ⟨false, false, false, false, false, false, false⟩
      opsizePfx := false
      segPfx := none
      halted := false
      pending := []
      a20 := s.params.a20Reset
      owner := owner
      lineOf := (s.params.devices.foldl State.requestIfWanted { s with lineOf := [] }).lineOf
      busLog := (s.params.devices.foldl State.requestIfWanted { s with lineOf := [] }).busLog
      devices := (s.params.devices.foldl State.resetDeviceState s).devices }

/-- The binding pass (R421, R602): after it the owner of a port is the last device, in `RESET_ORDER`, that registered it (a
device that unregisters it and does not register it again leaves it unowned), or whatever it was before. A disk channel
asks for a line and registers its command block and, of its control block if it has one, the ports that are not shared
(R556). -/
def Obligations.LastRegistrationOwnsThePort : Prop :=
  (∀ (s : State) (p : Half),
    s.systemReset.ownerOf p =
      s.params.devices.foldl
        (fun o x => if p ∈ x.kind.binding.ports then some x.id else if p ∈ x.kind.binding.drops then none else o)
        (s.ownerOf p)) ∧
  ∀ (k0 k1 : DriveKind) (ports : DiskPorts) (p : Half), (DeviceKind.diskChannel k0 k1 ports).binding.wantsLine = true ∧
    (p ∈ (DeviceKind.diskChannel k0 k1 ports).binding.ports ↔
      p ∈ ports.command.toList ∨ ∃ c, ports.control = some c ∧ p ∈ c ∧ p ∉ ports.shared)

/-! ### Encoding -/

/-- Decoding the bytes of any well-formed instruction gives it back, with its length, whatever bytes follow. -/
def Obligations.DecodeOfEncodeIsTheInstruction : Prop :=
  ∀ (opsize : Bool) (i : Instr) (rest : List Byte), i.wellFormed opsize = true →
    decodeUnit opsize (i.encode ++ rest) = .done i i.encode.length

/-- What the decoder accepts is well-formed, and its bytes are the encoder's: no two encodings of one instruction. -/
def Obligations.EncodeOfDecodeIsTheBytes : Prop :=
  ∀ (opsize : Bool) (bs : List Byte) (i : Instr) (n : Nat), decodeUnit opsize bs = .done i n →
    i.wellFormed opsize = true ∧ n ≤ bs.length ∧ i.encode = bs.take n

/-- Words of the spec's own examples, by their bytes, decode to the instructions they stand for. -/
def Obligations.WordsOfTheSpecDecode : Prop :=
  decodeUnit false [0x01, 0xD8] = .done (.addEvGv (.reg .r0) .r3) 2 ∧
  decodeUnit false [0x81, 0xE3, 0x0F, 0x00] = .done (.andEvIv (.reg .r3) (.imm16 0x000F)) 4 ∧
  decodeUnit false [0x8D, 0x47, 0x05] = .done (.leaGvM .r0 (.disp8 .bx 0x05)) 3 ∧
  decodeUnit false [0xC7, 0x06, 0x00, 0x20, 0xCD, 0xAB] =
    .done (.movEvIv (.mem (.direct 0x2000)) (.imm16 0xABCD)) 6 ∧
  decodeUnit true [0xB8, 0x78, 0x56, 0x34, 0x12] = .done (.movRIv .r0 (.imm32 0x12345678)) 5 ∧
  decodeUnit false [0xD1, 0xF8] = .done (.sarEvOne (.reg .r0)) 2 ∧
  decodeUnit false [0xFF, 0x36, 0x00, 0x05] = .done (.pushEv (.mem (.direct 0x0500))) 4 ∧
  decodeUnit false [0x9A, 0x00, 0x03, 0x00, 0x20] = .done (.callAp 0x0300 0x2000) 5 ∧
  decodeUnit false [0xCD, 0x21] = .done (.intIb 0x21) 2 ∧
  decodeUnit false [0xE4, 0x60] = .done (.inAlIb 0x60) 2 ∧
  decodeUnit false [0x8E, 0xD8] = .done (.movDsEw (.reg .r0)) 2 ∧
  decodeUnit false [0xFB] = .done .sti 1 ∧
  decodeUnit false [0x26] = .done .prefixEs 1

/-- The encodings of R131 raise DecodeFault: opcode bytes with no row, members marked none, register forms where memory is
required, segment register numbers without a register and the load of CS, the operand-size prefix on a class `fault` row,
and an instruction longer than `MAX_INSN_LEN` bytes. -/
def Obligations.ReservedEncodingsRaiseDecodeFault : Prop :=
  (∀ op ∈ Claims.unassigned, ∀ (opsize : Bool) (rest : List Byte),
    decodeUnit opsize (op :: rest) = .fault (.opcode op) 1) ∧
  (∀ x ∈ Claims.noMember, ∀ op ∈ x.1, ∀ r ∈ x.2, ∀ (opsize : Bool) (e : EOperand) (rest : List Byte),
    e.wellFormed = true → 4 ≤ rest.length → ∃ n, decodeUnit opsize (op :: (e.encode r ++ rest)) = .fault .group n) ∧
  (∀ x ∈ Claims.memoryOnly, ∀ op ∈ x.1, ∀ r ∈ x.2, ∀ (opsize : Bool) (rm : RegNum) (rest : List Byte),
    decodeUnit opsize (op :: ((EOperand.reg rm).encode r ++ rest)) = .fault .form 2) ∧
  (∀ x ∈ Claims.noSegment, ∀ op ∈ x.1, ∀ r ∈ x.2, ∀ (opsize : Bool) (e : EOperand) (rest : List Byte),
    e.wellFormed = true → decodeUnit opsize (op :: (e.encode r ++ rest)) = .fault .form (1 + (e.encode r).length)) ∧
  (∀ (i : Instr) (rest : List Byte), Claims.FaultClass i → i.operandsWellFormed true = true →
    decodeUnit true (i.encode ++ rest) = .fault .form i.encode.length) ∧
  ∀ (s : State) (ps : List Pfx) (body bs : List Byte), s.noInput → s.executes →
    bs.length = s.params.maxInsnLen + 1 → s.CodeAt bs → bs.take s.params.maxInsnLen = ps.map Pfx.byte ++ body →
    decodeUnit (pfxOpsize ps) body = .short → step s = s.startDecode.decodeFault bs .tooLong

/-! ### The cycle -/

/-- When the bytes at CS:ip are prefixes and then an instruction, and nothing comes before it (no input, no line to take, not
halted), a step runs that instruction, with ip behind it, its start saved and the latches as its prefixes set them: a
repeated 0x66 as one, the last segment override, no latch of an earlier instruction (R28, R32, R101 to R105, R500).
What a trace record holds is the model's choice (log 10). -/
def Obligations.StepRunsTheDecodedInstruction : Prop :=
  ∀ (s : State) (ps : List Pfx) (body : List Byte) (i : Instr), s.noInput → s.executes →
    s.CodeAt (ps.map Pfx.byte ++ body) → ps.length + body.length ≤ s.params.maxInsnLen →
    decodeUnit (pfxOpsize ps) body = .done i body.length → i.isPrefixByte = false →
    step s = exec i (s.fetched ps (ps.length + body.length))

/-- A DecodeFault (R510, R511): the fault record, CS, `ip_start`, the bytes fetched and the reason, is surfaced under both
policies. Under `halt` the run stops with it; under `vector6` it is put out, and interrupt 6 is entered from the state
before the instruction, latches cleared, with the return offset `ip_start`.
What a trace record holds is the model's choice (log 10). -/
def Obligations.DecodeFaultIsSurfaced : Prop :=
  ∀ (s : State) (ps : List Pfx) (body : List Byte) (info : DecodeInfo) (n : Nat) (bytes : List Byte), s.noInput →
    s.executes → s.CodeAt (ps.map Pfx.byte ++ body) → ps.length + body.length ≤ s.params.maxInsnLen →
    decodeUnit (pfxOpsize ps) body = .fault info n →
    bytes = (ps.map Pfx.byte ++ body).take (ps.length + n) →
    (s.params.policy = .halt → step s = .fault (.decodeFault s.sregs.cs s.ip bytes info)) ∧
    (s.params.policy = .vector6 → Claims.EntryBacked s 6 → ∃ t, step s = .next t ∧
      Claims.Enters { s with
        ipStart := s.ip
        opsizePfx := false
        segPfx := none
        busLog := .decodeFault s.sregs.cs s.ip bytes info :: s.busLog
        trace := s.trace ++ s.segRecords .read s.sregs.cs s.ip bytes.length } 6 s.ip t)

/-- The boundary check (R500, R501, R534 to R536): with IF = 1 a pending line is taken before the next instruction, halted or
not: the lowest-numbered one, at its vector, with the return offset at the next instruction; the line stays pending. A
halted cycle that takes no line, because IF = 0 or none is pending, changes nothing (R457). That the vector of a line is a
table of overrides over the default of R535, and that the default goes on above line 15, is the model's choice
(log 23).
What a trace record holds is the model's choice (log 10). -/
def Obligations.PendingLineIsTakenFirst : Prop :=
  (∀ (s : State) (n : Nat), s.noInput → s.flags.ifl = true → n ∈ s.pending → (∀ m ∈ s.pending, n ≤ m) →
    ∀ v : Byte, (Assoc.find n s.params.vectorTable = some v ∨ Assoc.find n s.params.vectorTable = none ∧
      v = if n < 8 then BitVec.ofNat 8 (0x08 + n) else BitVec.ofNat 8 (0x70 + (n - 8))) →
    Claims.EntryBacked s v → ∃ t, step s = .next t ∧ Claims.Enters s v s.ip t ∧ t.pending = s.pending) ∧
  ∀ s : State, s.noInput → s.halted = true → (s.flags.ifl = false ∨ s.pending = []) → step s = .next s

/-! ### Interrupts -/

/-- INT3, INT Ib and INTO with OF = 1 enter vectors 3, Ib and 4 with the return offset behind the instruction, whatever IF
holds; INTO with OF = 0 does nothing (R370 to R372, R520, R521).
What a trace record holds is the model's choice (log 10). -/
def Obligations.SoftwareInterruptsEnterTheirVector : Prop :=
  (∀ s : State, Claims.EntryBacked s 3 → ∃ t, exec .int3 s = .next t ∧ Claims.Enters s 3 s.ip t) ∧
  (∀ (s : State) (v : Byte), Claims.EntryBacked s v →
    ∃ t, exec (.intIb v) s = .next t ∧ Claims.Enters s v s.ip t) ∧
  (∀ s : State, s.flags.ofl = true → Claims.EntryBacked s 4 →
    ∃ t, exec .into s = .next t ∧ Claims.Enters s 4 s.ip t) ∧
  ∀ s : State, s.flags.ofl = false → exec .into s = .next s

/-- POPF pops the flag image; IRET pops ip, CS and the flag image, and no more; an image with bit 8 or bit 10 set is refused
(R309, R373, R30, U7).
What a trace record holds is the model's choice (log 10). -/
def Obligations.PopfAndIretLoadTheFlags : Prop :=
  (∀ (s : State) (v : Half), s.segBacked s.sregs.ss (Claims.sp s) 2 → s.Holds s.sregs.ss (Claims.sp s) 2 v →
    (v.getLsbD 8 = false ∧ v.getLsbD 10 = false →
      ∃ g, s.regs.Wrote .w16 .r4 (Claims.sp s + 2) g ∧ exec .popf s = .next { s with
        regs := g
        trace := s.trace ++ s.segRecords .read s.sregs.ss (Claims.sp s) 2
        flags := ⟨v.getLsbD 0, v.getLsbD 2, v.getLsbD 4, v.getLsbD 6, v.getLsbD 7, v.getLsbD 11, v.getLsbD 9⟩ }) ∧
    (v.getLsbD 8 = true ∨ v.getLsbD 10 = true → exec .popf s = .refused .unsupportedFlagBit)) ∧
  ∀ (s : State) (off sel image : Half), s.segBacked s.sregs.ss (Claims.sp s) 6 →
    s.Holds s.sregs.ss (Claims.sp s) 6 (image ++ (sel ++ off)) →
    (image.getLsbD 8 = false ∧ image.getLsbD 10 = false →
      ∃ g, s.regs.Wrote .w16 .r4 (Claims.sp s + 6) g ∧ exec .iret s = .next { s with
        regs := g
        trace := s.trace ++ s.segRecords .read s.sregs.ss (Claims.sp s) 6
        sregs := { s.sregs with cs := sel }
        ip := off
        flags := ⟨image.getLsbD 0, image.getLsbD 2, image.getLsbD 4, image.getLsbD 6, image.getLsbD 7,
          image.getLsbD 11, image.getLsbD 9⟩ }) ∧
    (image.getLsbD 8 = true ∨ image.getLsbD 10 = true → exec .iret s = .refused .unsupportedFlagBit)

/-- IRET undoes an interrupt entry: registers, segment registers and flags (IF with them) as they were, ip at the return
offset (R373, R522).
What a trace record holds is the model's choice (log 10). -/
def Obligations.IretUndoesTheEntry : Prop :=
  ∀ (s t : State) (v : Byte) (ret : Half), Claims.EntryBacked s v → Claims.Enters s v ret t →
    ∃ u, exec .iret t = .next u ∧ u.regs = s.regs ∧ u.sregs = s.sregs ∧ u.flags = s.flags ∧ u.ip = ret

/-! ### Registers, addresses, memory -/

/-- The flag image (R30): OF, IF, SF, ZF, AF, PF, CF at bits 11, 9, 7, 6, 4, 2, 0, bit 1 set, the others clear; loading an
image takes the seven flags from those bits and ignores the others. -/
def Obligations.FlagImageLayout : Prop :=
  (∀ (f : Flags) (k : Nat), (flagsImage f).getLsbD k =
    match k with
    | 0 => f.cf
    | 1 => true
    | 2 => f.pf
    | 4 => f.af
    | 6 => f.zf
    | 7 => f.sf
    | 9 => f.ifl
    | 11 => f.ofl
    | _ => false) ∧
  ∀ v : Half, flagsOfImage v = ⟨v.getLsbD 0, v.getLsbD 2, v.getLsbD 4, v.getLsbD 6, v.getLsbD 7, v.getLsbD 11,
    v.getLsbD 9⟩

/-- The register views (R20 to R23): a read gives the bits of the view (AH, CH, DH, BH the high bytes), a write puts the value
there and leaves every other bit of every register, and the rest of the state, as they were. -/
def Obligations.RegisterViewsShareStorage : Prop :=
  (∀ (s : State) (w : Width) (i : RegNum), s.readReg w i = s.regs.view w i) ∧
  ∀ (s : State) (w : Width) (i : RegNum) (v : BitVec w.bits), ∃ g, s.writeReg w i v = { s with regs := g } ∧
    s.regs.Wrote w i v g ∧ g.view w i = v

/-- Physical addresses (R61, R62): selector times 16 plus offset; with the gate disabled the bits above bit 19 are cleared, so
0x100000 resolves to 0, and with it enabled the two are distinct. -/
def Obligations.GateWrapsAtOneMegabyte : Prop :=
  (∀ sel off : Half, (linear sel off).toNat = sel.toNat * 16 + off.toNat) ∧
  (∀ (s : State) (a : Linear), s.phys a = if s.a20 then a.toNat else a.toNat % 2 ^ 20) ∧
  ∀ s : State, (s.phys 0x100000 = s.phys 0 ↔ s.a20 = false)

/-- The effective offset is the sum of the base registers' 16-bit views and the displacement modulo 2^16; the segment is the
override's, else SS when BP is in the base, else DS (R110, R111). -/
def Obligations.EffectiveAddressOfAMemoryOperand : Prop :=
  ∀ (s : State) (m : MemOperand),
    s.eaOff m = BitVec.ofInt 16
      (((Claims.eaRegs m).map fun r => ((s.regs.view .w16 r).toNat : Int)).sum + Claims.eaDisp m) ∧
    s.eaSeg m = match s.segPfx with
      | some .es => s.sregs.es
      | some .cs => s.sregs.cs
      | some .ss => s.sregs.ss
      | some .ds => s.sregs.ds
      | none => if .r5 ∈ Claims.eaRegs m then s.sregs.ss else s.sregs.ds

/-- A store puts the value's bytes at ascending offsets, low byte first, the offset wrapping at 64 KiB (`SegWrite`), or at
ascending absolute addresses with no such wrap (`MemWrite`); it changes no other byte and nothing but memory; a load from
there (`SegRead`, `MemRead`) gives the value back; what a load gives is what the bytes hold; each byte at the watch address
is traced (R64 to R69).
What a trace record holds is the model's choice (log 10). -/
def Obligations.StoreThenLoadReturnsTheValue : Prop :=
  (∀ (s : State) (w : Width) (sel off : Half) (v : BitVec w.bits), s.segBacked sel off w.bytes →
    (∃ m, s.writeSeg w sel off v = .ok { s with mem := m } (s.segRecords .write sel off w.bytes) ∧
      s.Stores sel off w.bytes v m ∧
      ({ s with mem := m } : State).readSeg w sel off = .ok v (s.segRecords .read sel off w.bytes)) ∧
    ∃ a, s.readSeg w sel off = .ok a (s.segRecords .read sel off w.bytes) ∧ s.Holds sel off w.bytes a) ∧
  ∀ (s : State) (a : Linear) (n : Nat) (v : Word), n ≤ 4 → s.absBacked a n →
    (∃ m, s.memWrite a n v = .ok { s with mem := m } (s.absRecords .write a n) ∧ s.AbsStores a n v m) ∧
    ∃ u : Word, s.memRead a n = .ok u (s.absRecords .read a n) ∧ s.AbsHolds a n u ∧
      ∀ i, 8 * n ≤ i → u.getLsbD i = false

/-- An access to a byte that no memory backs is refused, by every operand read and write, at an absolute address, and by the
stack; with `RAM_SIZE >= 0x10FFF0` no access of the CPU is (R63, R79, U6). -/
def Obligations.UnbackedAccessIsRefused : Prop :=
  (∀ (s : State) (w : Width) (e : EOperand) (v : BitVec w.bits), s.operandBacked w e = false →
    s.readE w e = .error .memoryRange ∧ s.writeE w e v = .error .memoryRange) ∧
  (∀ (s : State) (a : Linear) (n : Nat) (v : Word), n ≤ 4 → ¬ s.absBacked a n →
    s.memRead a n = .error .memoryRange ∧ s.memWrite a n v = .error .memoryRange) ∧
  (∀ (s : State) (w : Width) (v : BitVec w.bits),
    ¬ s.segBacked s.sregs.ss (Claims.sp s - BitVec.ofNat 16 w.bytes) w.bytes → s.push w v = .error .memoryRange) ∧
  (∀ (s : State) (w : Width), ¬ s.segBacked s.sregs.ss (Claims.sp s) w.bytes → s.pop w = .error .memoryRange) ∧
  ∀ s : State, s.fullRam → (∀ sel off n, s.segBacked sel off n) ∧ ∀ w e, s.operandBacked w e = true

/-- The host's bulk load (R79) puts the bytes at consecutive absolute addresses, without the gate, and changes no other
byte and nothing but memory; it is refused when a byte would lie at or beyond RAM_SIZE. It and the other inputs of an
environment phase act one after the other, each on the state the one before left, and then the cycle runs; with no phase to
come the cycle runs at once (R500, R503, R600). The gate toggle sets the gate, arming and disarming set the watch address,
and nothing else (R36, R39, R570). The `reset()` of one device re-initialises its own state, keeps a line it holds or asks
for one, unregisters and registers its ports, and changes nothing else (R421, R423, R531, R556). That the inputs come as a
queue of lists is the model's choice (log 7); that one step is one phase and one cycle, and that one device's `reset()` is
an input by itself, is read from the spec (log 22), and so is the stub's return to before any address write (log 25); that
`reset()` raises no line (log 29), and the state of a disk channel never constructed before (log 18), are the model's
choices; what a device binds is its configuration (log 8). `update()` is with IN, the system reset with its own
statement. -/
def Obligations.BulkLoadPlacesItsBytes : Prop :=
  (∀ (s : State) (addr : Nat) (bs : List Byte), addr + bs.length ≤ s.params.ramSize →
    ∃ m, s.setBytes addr bs = .ok { s with mem := m } ∧ (∀ k, ∀ h : k < bs.length, m.read (addr + k) = bs[k]'h) ∧
      ∀ a, (a < addr ∨ addr + bs.length ≤ a) → m.read a = s.mem.read a) ∧
  (∀ (s : State) (addr : Nat) (bs : List Byte), bs ≠ [] → s.params.ramSize < addr + bs.length →
    s.setBytes addr bs = .error .memoryRange) ∧
  (∀ s : State, s.phases = [] → step s = cycle s) ∧
  (∀ (s : State) (p : List Input) (ps : List (List Input)), s.phases = p :: ps →
    (∀ t, ({ s with phases := ps } : State).inputs p = .ok t → step s = cycle t) ∧
    ∀ r, ({ s with phases := ps } : State).inputs p = .error r → step s = .refused r) ∧
  (∀ (s : State) (i : Input) (is : List Input), s.inputs [] = .ok s ∧
    (∀ t, s.input i = .ok t → s.inputs (i :: is) = t.inputs is) ∧
    ∀ r, s.input i = .error r → s.inputs (i :: is) = .error r) ∧
  (∀ (s : State) (b : Bool) (a : Nat) (bs : List Byte),
    s.input (.setBytes a bs) = s.setBytes a bs ∧
    s.input .systemReset = .ok s.systemReset ∧
    s.input (.gate b) = .ok { s with a20 := b } ∧
    s.input (.armWatch a) = .ok { s with watch := some a } ∧
    s.input .disarmWatch = .ok { s with watch := none }) ∧
  (∀ (s : State) (d : DeviceId), s.deviceSpec d = none → s.input (.deviceReset d) = .ok s) ∧
  ∀ (s : State) (d : DeviceId) (x : DeviceSpec), s.deviceSpec d = some x → ∃ t,
    s.input (.deviceReset d) = .ok t ∧
    t = { s with
      owner := t.owner
      devices := t.devices
      lineOf := if x.kind.binding.wantsLine then (s.requestLine d x.linePrefs).1.lineOf else s.lineOf
      busLog := if x.kind.binding.wantsLine then (s.requestLine d x.linePrefs).1.busLog else s.busLog } ∧
    (∀ p : Half, t.ownerOf p = if p ∈ x.kind.binding.ports then some d
      else if p ∈ x.kind.binding.drops then none else s.ownerOf p) ∧
    (∀ d', d' ≠ d → Assoc.find d' t.devices = Assoc.find d' s.devices) ∧
    Assoc.find d t.devices = match x.kind, Assoc.find d s.devices with
      | .blackBox _, old => old
      | .configStub _ _ _, _ => some (.stub false)
      | .diskChannel _ _ _, some (.disk c) => some (.disk c.reset)
      | .diskChannel k0 k1 _, _ => some (.disk (DiskChannel.construct k0 k1).reset)

/-! ### Every instruction -/

/-- With all of memory backed every instruction completes, in every state and on every operand: POPF and IRET unless the popped
image has bit 8 or bit 10 set (R63, R540, U7). -/
def Obligations.EveryInstructionCompletesWithFullRam : Prop :=
  ∀ (i : Instr) (s : State), s.fullRam →
    (i = .popf → ∃ image : Half, s.Holds s.sregs.ss (Claims.sp s) 2 image ∧ image.getLsbD 8 = false ∧
      image.getLsbD 10 = false) →
    (i = .iret → ∃ image : Half, s.Holds s.sregs.ss (Claims.sp s + 4) 2 image ∧ image.getLsbD 8 = false ∧
      image.getLsbD 10 = false) →
    ∃ t, exec i s = .next t

/-- Segment registers are written by these instructions only: ES, SS and DS by a move or a pop into them, CS by far transfers
and interrupt entries (R26). -/
def Obligations.SegmentRegistersAreWrittenOnlyByThese : Prop :=
  ∀ (i : Instr) (s t : State), exec i s = .next t →
    (¬ Claims.WritesCs i → t.sregs.cs = s.sregs.cs) ∧
    ∀ r : SReg, r ≠ .cs → Claims.loadsSegment i ≠ some r → t.sregs.get r = s.sregs.get r

/-- The instructions R31 does not name as writing flags leave every flag unchanged; IF is written by CLI, STI, POPF, IRET and
interrupt entries only. -/
def Obligations.FlagsAreWrittenOnlyByThese : Prop :=
  ∀ (i : Instr) (s t : State), exec i s = .next t →
    (Claims.KeepsFlags i → t.flags = s.flags) ∧ (¬ Claims.WritesIf i → t.flags.ifl = s.flags.ifl)

/-- No instruction changes the port map, the line table, the watch address, the parameters or the saved start; only IN and OUT
reach the lines, the gate and the devices; only prefix bytes set the latches; only HLT halts; the trace only grows, by
records of accesses at the watch address (R32, R33, R36, R39, R421, R530, R570).
What a trace record holds is the model's choice (log 10). -/
def Obligations.WhatNoInstructionChanges : Prop :=
  ∀ (i : Instr) (s t : State), exec i s = .next t →
    (t.owner = s.owner ∧ t.lineOf = s.lineOf ∧ t.watch = s.watch ∧ t.params = s.params ∧ t.phases = s.phases ∧
      t.ipStart = s.ipStart) ∧
    ((∀ w p, ¬ Claims.ReadsPort s i w p) → (∀ w p, ¬ Claims.WritesPort s i w p) →
      t.pending = s.pending ∧ t.a20 = s.a20 ∧ t.devices = s.devices ∧ t.replies = s.replies ∧
      t.portCalls = s.portCalls ∧ t.busLog = s.busLog) ∧
    (i.isPrefixByte = false → t.opsizePfx = s.opsizePfx ∧ t.segPfx = s.segPfx) ∧
    (i ≠ .hlt → t.halted = true → s.halted = true) ∧
    ∃ l, t.trace = s.trace ++ l ∧ s.Flagged l

/-- The watch address changes nothing: every instruction, and every cycle, does the same with any other, but for the trace
records (R39, R570); an access is flagged exactly when its gated address is the watched one, a read and a write of a byte
alike, and is then recorded (R71). What a record holds is the model's choice (log 10). -/
def Obligations.WatchAddressChangesNothing : Prop :=
  (∀ (i : Instr) (s : State) (w : Option Nat) (l : List TraceRecord),
    Claims.unwatched (exec i { s with watch := w, trace := l }) = Claims.unwatched (exec i s)) ∧
  (∀ (s : State) (w : Option Nat) (l : List TraceRecord),
    Claims.unwatched (cycle { s with watch := w, trace := l }) = Claims.unwatched (cycle s)) ∧
  (∀ (s : State) (a : Linear), s.watchFlags a = true ↔ s.watch = some (s.phys a)) ∧
  ∀ (s : State) (a : Linear) (b : Byte), s.phys a < s.params.ramSize →
    (s.watch = some (s.phys a) → s.readByte a = .ok (s.mem.read (s.phys a)) [⟨s.phys a, .read⟩] ∧
      s.writeByte a b = .ok { s with mem := s.mem.write (s.phys a) b } [⟨s.phys a, .write⟩]) ∧
    (s.watch ≠ some (s.phys a) → s.readByte a = .ok (s.mem.read (s.phys a)) [] ∧
      s.writeByte a b = .ok { s with mem := s.mem.write (s.phys a) b } [])

/-- An `UNDEF_FLAG` value is a function of the instruction, the width, the operand values, the count and the flags before: two
executions that agree on these leave the same flags (R203). -/
def Obligations.UndefinedFlagsAreAFunction : Prop :=
  (∀ (s s' t t' : State) (i i' : Instr) (op : ShiftOp) (w : Width) (e e' : EOperand) (c : Byte) (a : BitVec w.bits),
    Claims.Shifts s i op w e c → Claims.Shifts s' i' op w e' c → s.Reads w e a → s'.Reads w e' a →
    s.flags = s'.flags → exec i s = .next t → exec i' s' = .next t' → t.flags = t'.flags) ∧
  (∀ (s s' t t' : State) (i i' : Instr) (sg : Bool) (w : Width) (e e' : EOperand) (a : BitVec w.bits),
    Claims.Multiplies s i sg w e → Claims.Multiplies s' i' sg w e' → s.Reads w e a → s'.Reads w e' a →
    s.regs.view w .r0 = s'.regs.view w .r0 →
    s.flags = s'.flags → exec i s = .next t → exec i' s' = .next t' → t.flags = t'.flags) ∧
  ∀ (s s' t t' : State) (i i' : Instr) (sg : Bool) (w : Width) (e e' : EOperand) (a : BitVec w.bits),
    Claims.Divides s i sg w e → Claims.Divides s' i' sg w e' → s.Reads w e a → s'.Reads w e' a →
    s.regs.view w .r0 = s'.regs.view w .r0 → s.regs.view w (Claims.accHigh w) = s'.regs.view w (Claims.accHigh w) →
    s.flags = s'.flags → exec i s = .next t → exec i' s' = .next t' → t.flags = t'.flags

/-! ### Data movement -/

/-- MOV, all forms: the destination register or memory (R150 to R156), or ES, SS or DS (R157), gets the source's value,
nothing else changes.
What a trace record holds is the model's choice (log 10). -/
def Obligations.MovPutsTheSourceInTheDestination : Prop :=
  (∀ (s : State) (i : Instr) (w : Width) (dst : EOperand) (src : Claims.Source w) (v : BitVec w.bits),
    Claims.Moves s i w dst src → s.operandBacked w dst = true → src.Has s v →
    ∃ g m, exec i s = .next { s with
        regs := g
        mem := m
        trace := s.trace ++ (src.records s ++ s.operandRecords .write w dst) } ∧ s.Puts w dst v g m) ∧
  ∀ (s : State) (e : EOperand) (v : Half), s.operandBacked .w16 e = true → s.Reads .w16 e v →
    exec (.movEsEw e) s = .next { s with
      sregs := { s.sregs with es := v }
      trace := s.trace ++ s.operandRecords .read .w16 e } ∧
    exec (.movSsEw e) s = .next { s with
      sregs := { s.sregs with ss := v }
      trace := s.trace ++ s.operandRecords .read .w16 e } ∧
    exec (.movDsEw e) s = .next { s with
      sregs := { s.sregs with ds := v }
      trace := s.trace ++ s.operandRecords .read .w16 e }

/-- XCHG: both operands are read before either is written; the E operand gets the register's value, then the register the E
operand's; the short forms swap the accumulator and a register (R160, R161).
What a trace record holds is the model's choice (log 10). -/
def Obligations.XchgSwapsItsOperands : Prop :=
  (∀ (s : State) (e : EOperand) (r : RegNum) (w : Width) (a : BitVec w.bits) (i : Instr),
    (i = .xchgEbGb e r ∧ w = .w8 ∨ i = .xchgEvGv e r ∧ w = s.vWidth) →
    s.operandBacked w e = true → s.Reads w e a →
    ∃ g m g', s.Puts w e (s.regs.view w r) g m ∧ g.Wrote w r a g' ∧
      exec i s = .next { s with
        regs := g'
        mem := m
        trace := s.trace ++ (s.operandRecords .read w e ++ s.operandRecords .write w e) }) ∧
  ∀ (s : State) (r : RegNum) (i : Instr),
    (i, r) ∈ [(.xchgEaxEcx, .r1), (.xchgEaxEdx, .r2), (.xchgEaxEbx, .r3), (.xchgEaxEsp, .r4), (.xchgEaxEbp, .r5),
      (.xchgEaxEsi, .r6), (.xchgEaxEdi, .r7)] →
    ∃ g g', s.regs.Wrote s.vWidth .r0 (s.regs.view s.vWidth r) g ∧
      g.Wrote s.vWidth r (s.regs.view s.vWidth .r0) g' ∧ exec i s = .next { s with regs := g' }

/-- LEA writes the effective offset, zero-extended; XLAT loads AL from BX + AL modulo 2^16 in DS or the override's segment
(R162, R163).
What a trace record holds is the model's choice (log 10). -/
def Obligations.LeaAndXlat : Prop :=
  (∀ (s : State) (r : RegNum) (m : MemOperand), ∃ g, exec (.leaGvM r m) s = .next { s with regs := g } ∧
    s.regs.Wrote s.vWidth r (BitVec.ofNat _ (s.eaOff m).toNat) g) ∧
  ∀ (s : State) (v : Byte) (off : Half),
    off = BitVec.ofNat 16 ((s.regs.view .w16 .r3).toNat + (s.regs.view .w8 .r0).toNat) →
    s.segBacked (s.dataSeg .ds) off 1 → s.Holds (s.dataSeg .ds) off 1 v →
    ∃ g, exec .xlat s = .next { s with
        regs := g
        trace := s.trace ++ s.segRecords .read (s.dataSeg .ds) off 1 } ∧ s.regs.Wrote .w8 .r0 v g

/-- CBW and CWDE, CWD and CDQ, LAHF and SAHF (R164 to R167). -/
def Obligations.AccumulatorAndFlagByteMoves : Prop :=
  (∀ s : State, s.opsizePfx = false → ∃ g, exec .cbw s = .next { s with regs := g } ∧
    s.regs.Wrote .w16 .r0 (BitVec.ofInt 16 (s.regs.view .w8 .r0).toInt) g) ∧
  (∀ s : State, s.opsizePfx = true → ∃ g, exec .cbw s = .next { s with regs := g } ∧
    s.regs.Wrote .w32 .r0 (BitVec.ofInt 32 (s.regs.view .w16 .r0).toInt) g) ∧
  (∀ s : State, s.opsizePfx = false → ∃ g, exec .cwd s = .next { s with regs := g } ∧
    s.regs.Wrote .w16 .r2 (if (s.regs.view .w16 .r0).toInt < 0 then 0xFFFF#16 else 0x0000#16) g) ∧
  (∀ s : State, s.opsizePfx = true → ∃ g, exec .cwd s = .next { s with regs := g } ∧
    s.regs.Wrote .w32 .r2 (if (s.regs.view .w32 .r0).toInt < 0 then 0xFFFFFFFF#32 else 0x00000000#32) g) ∧
  (∀ s : State, ∃ g, exec .lahf s = .next { s with regs := g } ∧
    s.regs.Wrote .w8 .r4 (BitVec.ofBoolListLE [s.flags.cf, true, s.flags.pf, false, s.flags.af, false, s.flags.zf,
      s.flags.sf]) g) ∧
  ∀ (s : State) (v : Byte), s.regs.view .w8 .r4 = v → exec .sahf s = .next { s with flags := { s.flags with
    cf := v.getLsbD 0
    pf := v.getLsbD 2
    af := v.getLsbD 4
    zf := v.getLsbD 6
    sf := v.getLsbD 7 } }

/-! ### Arithmetic and logic -/

/-- ADD and ADC, all forms: the sum modulo 2^w in the destination, the six flags by R201, nothing else changed.
What a trace record holds is the model's choice (log 10). -/
def Obligations.AddAndAdcGiveTheSum : Prop :=
  ∀ (s : State) (i : Instr) (op : AluOp) (w : Width) (dst : EOperand) (src : Claims.Source w) (a b : BitVec w.bits)
    (c : Nat), Claims.TwoOperand s i op w dst src → (op = .add ∧ c = 0 ∨ op = .adc ∧ c = s.flags.cf.toNat) →
    s.operandBacked w dst = true → s.Reads w dst a → src.Has s b →
    ∃ g m, exec i s = .next { s with
        regs := g
        mem := m
        flags := Claims.sumFlags a b c s.flags
        trace := s.trace ++ (src.records s ++ (s.operandRecords .read w dst ++ s.operandRecords .write w dst)) } ∧
      s.Puts w dst (BitVec.ofNat w.bits (a.toNat + b.toNat + c)) g m

/-- SUB and SBB, all forms: the difference modulo 2^w in the destination, the six flags by R202; CMP: the same flags and
nothing written.
What a trace record holds is the model's choice (log 10). -/
def Obligations.SubSbbAndCmpGiveTheDifference : Prop :=
  (∀ (s : State) (i : Instr) (op : AluOp) (w : Width) (dst : EOperand) (src : Claims.Source w) (a b : BitVec w.bits)
    (c : Nat), Claims.TwoOperand s i op w dst src → (op = .sub ∧ c = 0 ∨ op = .sbb ∧ c = s.flags.cf.toNat) →
    s.operandBacked w dst = true → s.Reads w dst a → src.Has s b →
    ∃ g m, exec i s = .next { s with
        regs := g
        mem := m
        flags := Claims.differenceFlags a b c s.flags
        trace := s.trace ++ (src.records s ++ (s.operandRecords .read w dst ++ s.operandRecords .write w dst)) } ∧
      s.Puts w dst (BitVec.ofInt w.bits (a.toNat - b.toNat - c)) g m) ∧
  ∀ (s : State) (i : Instr) (w : Width) (dst : EOperand) (src : Claims.Source w) (a b : BitVec w.bits),
    Claims.TwoOperand s i .cmp w dst src → s.operandBacked w dst = true → s.Reads w dst a → src.Has s b →
    exec i s = .next { s with
      flags := Claims.differenceFlags a b 0 s.flags
      trace := s.trace ++ (src.records s ++ s.operandRecords .read w dst) }

/-- AND, OR and XOR, all forms: the bitwise result in the destination; TEST: the flags of the AND and nothing written;
CF, OF and AF cleared, SF, ZF and PF from the result (R204, R211, R214, R216, R218).
What a trace record holds is the model's choice (log 10). -/
def Obligations.LogicInstructionsAndTest : Prop :=
  (∀ (s : State) (i : Instr) (op : AluOp) (w : Width) (dst : EOperand) (src : Claims.Source w)
    (a b r : BitVec w.bits), Claims.TwoOperand s i op w dst src →
    (op = .and ∧ r = a &&& b ∨ op = .or ∧ r = a ||| b ∨ op = .xor ∧ r = a ^^^ b) →
    s.operandBacked w dst = true → s.Reads w dst a → src.Has s b →
    ∃ g m, exec i s = .next { s with
        regs := g
        mem := m
        flags := Claims.bitwiseFlags r s.flags
        trace := s.trace ++ (src.records s ++ (s.operandRecords .read w dst ++ s.operandRecords .write w dst)) } ∧
      s.Puts w dst r g m) ∧
  ∀ (s : State) (i : Instr) (w : Width) (e : EOperand) (src : Claims.Source w) (a b : BitVec w.bits),
    Claims.Tests s i w e src → s.operandBacked w e = true → s.Reads w e a → src.Has s b →
    exec i s = .next { s with
      flags := Claims.bitwiseFlags (a &&& b) s.flags
      trace := s.trace ++ (src.records s ++ s.operandRecords .read w e) }

/-- What the flags of an addition or subtraction mean: CF says the unsigned result left its range, OF that the signed one did,
AF that the low four bits carried or borrowed (R201, R202, R206). -/
def Obligations.CarryAndOverflowReportTheRange : Prop :=
  ∀ (s t : State) (i : Instr) (op : AluOp) (w : Width) (dst : EOperand) (src : Claims.Source w) (a b : BitVec w.bits),
    Claims.TwoOperand s i op w dst src → s.operandBacked w dst = true → s.Reads w dst a → src.Has s b →
    exec i s = .next t →
    let c : Int := if op = .adc ∨ op = .sbb then s.flags.cf.toNat else 0
    (op = .add ∨ op = .adc →
      (t.flags.cf = true ↔ (2 : Int) ^ w.bits ≤ a.toNat + b.toNat + c) ∧
      (t.flags.ofl = true ↔ a.toInt + b.toInt + c < -2 ^ (w.bits - 1) ∨ 2 ^ (w.bits - 1) ≤ a.toInt + b.toInt + c) ∧
      (t.flags.af = true ↔ 16 ≤ (a.toNat % 16 : Int) + (b.toNat % 16 : Int) + c)) ∧
    (op = .sub ∨ op = .sbb ∨ op = .cmp →
      (t.flags.cf = true ↔ (a.toNat : Int) - b.toNat - c < 0) ∧
      (t.flags.ofl = true ↔ a.toInt - b.toInt - c < -2 ^ (w.bits - 1) ∨ 2 ^ (w.bits - 1) ≤ a.toInt - b.toInt - c) ∧
      (t.flags.af = true ↔ (a.toNat % 16 : Int) - (b.toNat % 16 : Int) - c < 0))

/-- After CMP the conditional jumps order its operands: JB and JBE as unsigned numbers, JL and JLE as signed ones, JE when equal
(R120, R217). -/
def Obligations.ConditionsAfterCmpOrderTheOperands : Prop :=
  ∀ (s t : State) (i : Instr) (w : Width) (dst : EOperand) (src : Claims.Source w) (a b : BitVec w.bits),
    Claims.TwoOperand s i .cmp w dst src → s.operandBacked w dst = true → s.Reads w dst a → src.Has s b →
    exec i s = .next t → ∀ rel : Byte,
    (exec (.je rel) t = .next { t with ip := if a = b then Claims.target t rel else t.ip }) ∧
    (exec (.jb rel) t = .next { t with ip := if a.toNat < b.toNat then Claims.target t rel else t.ip }) ∧
    (exec (.jbe rel) t = .next { t with ip := if a.toNat ≤ b.toNat then Claims.target t rel else t.ip }) ∧
    (exec (.jl rel) t = .next { t with ip := if a.toInt < b.toInt then Claims.target t rel else t.ip }) ∧
    (exec (.jle rel) t = .next { t with ip := if a.toInt ≤ b.toInt then Claims.target t rel else t.ip })

/-- INC and DEC: the operand plus or minus 1 modulo 2^w, the flags of that addition or subtraction, CF unchanged (R220,
R221).
What a trace record holds is the model's choice (log 10). -/
def Obligations.IncAndDecKeepTheCarry : Prop :=
  ∀ (s : State) (i : Instr) (up : Bool) (w : Width) (e : EOperand) (a : BitVec w.bits), Claims.IncDec s i up w e →
    s.operandBacked w e = true → s.Reads w e a →
    ∃ g m, s.Puts w e (if up then a + 1 else a - 1) g m ∧
      exec i s = .next { s with
        regs := g
        mem := m
        flags := { (if up then Claims.sumFlags a 1 0 s.flags else Claims.differenceFlags a 1 0 s.flags) with
          cf := s.flags.cf }
        trace := s.trace ++ (s.operandRecords .read w e ++ s.operandRecords .write w e) }

/-- NEG: 0 minus the operand, with CF set unless the operand is 0, OF set when it is 2^(w-1), AF set unless its low four bits
are 0; NOT: the ones complement, no flag changed (R222, R223).
What a trace record holds is the model's choice (log 10). -/
def Obligations.NegAndNot : Prop :=
  (∀ (s : State) (i : Instr) (w : Width) (e : EOperand) (a : BitVec w.bits),
    (i = .negEb e ∧ w = .w8 ∨ i = .negEv e ∧ w = s.vWidth) → s.operandBacked w e = true → s.Reads w e a →
    ∃ g m, s.Puts w e (-a) g m ∧ exec i s = .next { s with
      regs := g
      mem := m
      flags := Claims.resultFlags (-a) { s.flags with
        cf := decide (a ≠ 0)
        ofl := decide (a.toNat = 2 ^ (w.bits - 1))
        af := decide (a.toNat % 16 ≠ 0) }
      trace := s.trace ++ (s.operandRecords .read w e ++ s.operandRecords .write w e) }) ∧
  ∀ (s : State) (i : Instr) (w : Width) (e : EOperand) (a : BitVec w.bits),
    (i = .notEb e ∧ w = .w8 ∨ i = .notEv e ∧ w = s.vWidth) → s.operandBacked w e = true → s.Reads w e a →
    ∃ g m, s.Puts w e (~~~a) g m ∧ exec i s = .next { s with
      regs := g
      mem := m
      trace := s.trace ++ (s.operandRecords .read w e ++ s.operandRecords .write w e) }

/-- MUL and IMUL: the exact unsigned or signed product in AX, DX:AX or EDX:EAX; CF = OF = 1 unless the high half is only the
zero or sign extension of the low half; IF unchanged. What SF, ZF, AF and PF become is left open (R230, R231).
What a trace record holds is the model's choice (log 10). -/
def Obligations.MulAndImulGiveTheProduct : Prop :=
  ∀ (s : State) (i : Instr) (sg : Bool) (w : Width) (e : EOperand) (b : BitVec w.bits) (p : Int),
    Claims.Multiplies s i sg w e → s.operandBacked w e = true → s.Reads w e b →
    p = (if sg then (s.regs.view w .r0).toInt * b.toInt else (s.regs.view w .r0).toNat * b.toNat) →
    ∃ g g' f, s.regs.Wrote w .r0 (BitVec.ofInt w.bits p) g ∧
      g.Wrote w (Claims.accHigh w) (BitVec.ofInt w.bits (p / 2 ^ w.bits)) g' ∧
      exec i s = .next { s with regs := g', flags := f, trace := s.trace ++ s.operandRecords .read w e } ∧
      (f.cf = true ↔ if sg then p ≠ (BitVec.ofInt w.bits p).toInt else 2 ^ w.bits ≤ p) ∧ f.ofl = f.cf ∧
      Claims.SameIf s.flags f

/-- DIV with a quotient that fits: the quotient in AL, AX or EAX, the remainder in AH, DX or EDX; IF unchanged. What the six
status flags become is left open (R232).
What a trace record holds is the model's choice (log 10). -/
def Obligations.DivGivesQuotientAndRemainder : Prop :=
  ∀ (s : State) (i : Instr) (w : Width) (e : EOperand) (d : BitVec w.bits) (n : Nat), Claims.Divides s i false w e →
    s.operandBacked w e = true → s.Reads w e d →
    n = (s.regs.view w (Claims.accHigh w)).toNat * 2 ^ w.bits + (s.regs.view w .r0).toNat →
    d ≠ 0 → n / d.toNat < 2 ^ w.bits →
    ∃ g g' f, s.regs.Wrote w .r0 (BitVec.ofNat w.bits (n / d.toNat)) g ∧
      g.Wrote w (Claims.accHigh w) (BitVec.ofNat w.bits (n % d.toNat)) g' ∧
      exec i s = .next { s with regs := g', flags := f, trace := s.trace ++ s.operandRecords .read w e } ∧ Claims.SameIf s.flags f

/-- IDIV with a quotient that fits: n = q * d + r with |r| < |d| and r zero or of the sign of n; q and r in the registers of
R232; IF unchanged. What the six status flags become is left open (R206, R233).
What a trace record holds is the model's choice (log 10). -/
def Obligations.IdivRoundsTowardZero : Prop :=
  ∀ (s : State) (i : Instr) (w : Width) (e : EOperand) (d : BitVec w.bits) (n q r : Int),
    Claims.Divides s i true w e → s.operandBacked w e = true → s.Reads w e d →
    n = (s.regs.view w (Claims.accHigh w)).toInt * 2 ^ w.bits + (s.regs.view w .r0).toNat →
    d ≠ 0 → n = q * d.toInt + r → |r| < |d.toInt| → (r = 0 ∨ (0 < r ↔ 0 < n)) →
    -2 ^ (w.bits - 1) ≤ q → q < 2 ^ (w.bits - 1) →
    ∃ g g' f, s.regs.Wrote w .r0 (BitVec.ofInt w.bits q) g ∧
      g.Wrote w (Claims.accHigh w) (BitVec.ofInt w.bits r) g' ∧
      exec i s = .next { s with regs := g', flags := f, trace := s.trace ++ s.operandRecords .read w e } ∧ Claims.SameIf s.flags f

/-- The divide error: with divisor 0, or a quotient that does not fit, DIV and IDIV enter vector 0 with the return offset at the
start of the instruction and change nothing else (R232, R233, R512).
What a trace record holds is the model's choice (log 10). -/
def Obligations.DivideErrorEntersVectorZero : Prop :=
  ∀ (s : State) (i : Instr) (sg : Bool) (w : Width) (e : EOperand) (d : BitVec w.bits), Claims.Divides s i sg w e →
    s.operandBacked w e = true → s.Reads w e d → Claims.EntryBacked s 0 →
    (d = 0 ∨
      sg = false ∧ 2 ^ w.bits ≤
        ((s.regs.view w (Claims.accHigh w)).toNat * 2 ^ w.bits + (s.regs.view w .r0).toNat) / d.toNat ∨
      sg = true ∧ ∀ q r : Int,
        (s.regs.view w (Claims.accHigh w)).toInt * 2 ^ w.bits + (s.regs.view w .r0).toNat = q * d.toInt + r →
        |r| < |d.toInt| →
        (r = 0 ∨ (0 < r ↔ 0 < (s.regs.view w (Claims.accHigh w)).toInt * 2 ^ w.bits + (s.regs.view w .r0).toNat)) →
        q < -2 ^ (w.bits - 1) ∨ 2 ^ (w.bits - 1) ≤ q) →
    ∃ t, exec i s = .next t ∧
      Claims.Enters { s with trace := s.trace ++ s.operandRecords .read w e } 0 s.ipStart t

/-! ### Shifts and rotates -/

/-- A count that is 0 modulo 32 changes nothing: no flag, not the operand; only the read of the operand is traced (R260).
What a trace record holds is the model's choice (log 10). -/
def Obligations.ZeroCountChangesNothing : Prop :=
  ∀ (s : State) (i : Instr) (op : ShiftOp) (w : Width) (e : EOperand) (c : Byte), Claims.Shifts s i op w e c →
    s.operandBacked w e = true → c.toNat % 32 = 0 →
    exec i s = .next { s with trace := s.trace ++ s.operandRecords .read w e }

/-- ROL and ROR: the bits turn by the count modulo the width; CF is the bit that came round; OF for a count of 1; SF, ZF, AF, PF
and IF unchanged (R261 to R263).
What a trace record holds is the model's choice (log 10). -/
def Obligations.RolAndRorTurnTheOperand : Prop :=
  ∀ (s : State) (i : Instr) (op : ShiftOp) (w : Width) (e : EOperand) (c : Byte) (a : BitVec w.bits),
    Claims.Shifts s i op w e c → (op = .rol ∨ op = .ror) → s.operandBacked w e = true → s.Reads w e a →
    c.toNat % 32 ≠ 0 →
    ∃ r g m f, exec i s = .next { s with
        regs := g
        mem := m
        flags := f
        trace := s.trace ++ (s.operandRecords .read w e ++ s.operandRecords .write w e) } ∧ s.Puts w e r g m ∧
      (∀ k < w.bits, r.getLsbD k =
        a.getLsbD ((if op = .rol then k + (w.bits - c.toNat % 32 % w.bits) else k + c.toNat % 32) % w.bits)) ∧
      f.cf = (if op = .rol then r.getLsbD 0 else r.msb) ∧
      (c.toNat % 32 = 1 → f.ofl = if op = .rol then r.msb ^^ f.cf else r.msb ^^ r.getLsbD (w.bits - 2)) ∧
      f = { s.flags with cf := f.cf, ofl := f.ofl }

/-- RCL and RCR: the operand and CF turn as one value of w + 1 bits, CF its top bit; OF for a count of 1; SF, ZF, AF, PF and IF
unchanged (R261, R264, R265).
What a trace record holds is the model's choice (log 10). -/
def Obligations.RclAndRcrTurnThroughTheCarry : Prop :=
  ∀ (s : State) (i : Instr) (op : ShiftOp) (w : Width) (e : EOperand) (c : Byte) (a : BitVec w.bits)
    (x : BitVec (w.bits + 1)), Claims.Shifts s i op w e c → (op = .rcl ∨ op = .rcr) → s.operandBacked w e = true →
    s.Reads w e a → c.toNat % 32 ≠ 0 → x = BitVec.cons s.flags.cf a →
    ∃ y : BitVec (w.bits + 1), ∃ g m f, exec i s = .next { s with
        regs := g
        mem := m
        flags := f
        trace := s.trace ++ (s.operandRecords .read w e ++ s.operandRecords .write w e) } ∧
      s.Puts w e (y.setWidth w.bits) g m ∧
      (∀ k < w.bits + 1, y.getLsbD k = x.getLsbD
        ((if op = .rcl then k + (w.bits + 1 - c.toNat % 32 % (w.bits + 1)) else k + c.toNat % 32) % (w.bits + 1))) ∧
      f.cf = y.msb ∧
      (c.toNat % 32 = 1 → f.ofl =
        if op = .rcl then y.getLsbD (w.bits - 1) ^^ f.cf else y.getLsbD (w.bits - 1) ^^ y.getLsbD (w.bits - 2)) ∧
      f = { s.flags with cf := f.cf, ofl := f.ofl }

/-- SHL, SHR and SAR: the operand times 2^count modulo 2^w, or divided by 2^count rounding down as an unsigned or a signed
number; CF is the last bit shifted out where R266 to R268 give it, OF for a count of 1, SF, ZF and PF from the result;
IF unchanged. What AF becomes is left open.
What a trace record holds is the model's choice (log 10). -/
def Obligations.ShiftsMultiplyAndDivide : Prop :=
  ∀ (s : State) (i : Instr) (op : ShiftOp) (w : Width) (e : EOperand) (c : Byte) (a r : BitVec w.bits),
    Claims.Shifts s i op w e c → s.operandBacked w e = true → s.Reads w e a → c.toNat % 32 ≠ 0 →
    (op = .shl ∧ r = BitVec.ofNat w.bits (a.toNat * 2 ^ (c.toNat % 32)) ∨
      op = .shr ∧ r = BitVec.ofNat w.bits (a.toNat / 2 ^ (c.toNat % 32)) ∨
      op = .sar ∧ r = BitVec.ofInt w.bits (a.toInt / 2 ^ (c.toNat % 32))) →
    ∃ g m f, exec i s = .next { s with
        regs := g
        mem := m
        flags := f
        trace := s.trace ++ (s.operandRecords .read w e ++ s.operandRecords .write w e) } ∧ s.Puts w e r g m ∧
      (op = .shl → c.toNat % 32 < w.bits → f.cf = a.getLsbD (w.bits - c.toNat % 32)) ∧
      (op = .shr → c.toNat % 32 < w.bits → f.cf = a.getLsbD (c.toNat % 32 - 1)) ∧
      (op = .sar → f.cf = a.getLsbD (min (c.toNat % 32 - 1) (w.bits - 1))) ∧
      (c.toNat % 32 = 1 → f.ofl = if op = .shl then r.msb ^^ f.cf else if op = .shr then a.msb else false) ∧
      f.zf = decide (r = 0) ∧ f.sf = r.msb ∧ f.pf = Claims.evenOnes r ∧ Claims.SameIf s.flags f

/-! ### Stack -/

/-- PUSH, all forms, and PUSHF: SP moves down by the width, the value (read before) lies at SS:SP, nothing else changes
(R300, R302, R304, R306, R308).
What a trace record holds is the model's choice (log 10). -/
def Obligations.PushStoresBelowTheStackPointer : Prop :=
  ∀ (s : State) (i : Instr) (w : Width) (src : Claims.Source w) (v : BitVec w.bits), Claims.Pushes s i w src →
    src.Has s v → s.segBacked s.sregs.ss (Claims.sp s - BitVec.ofNat 16 w.bytes) w.bytes →
    ∃ g m, exec i s = .next { s with
        regs := g
        mem := m
        trace := s.trace ++ (src.records s ++
          s.segRecords .write s.sregs.ss (Claims.sp s - BitVec.ofNat 16 w.bytes) w.bytes) } ∧
      s.regs.Wrote .w16 .r4 (Claims.sp s - BitVec.ofNat 16 w.bytes) g ∧
      s.Stores s.sregs.ss (Claims.sp s - BitVec.ofNat 16 w.bytes) w.bytes v m

/-- POP into a register or memory: SP moves up by the width, then the operand gets the value that was at SS:SP; POP into ES, SS
or DS likewise; nothing else changes (R301, R303, R305, R307).
What a trace record holds is the model's choice (log 10). -/
def Obligations.PopLoadsFromTheStackPointer : Prop :=
  (∀ (s : State) (i : Instr) (w : Width) (e : EOperand) (v : BitVec w.bits),
    ((∃ r, i = .popR r ∧ e = .reg r) ∨ i = .popEv e) → w = s.vWidth → s.segBacked s.sregs.ss (Claims.sp s) w.bytes →
    s.Holds s.sregs.ss (Claims.sp s) w.bytes v → s.operandBacked w e = true →
    ∃ g g' m, s.regs.Wrote .w16 .r4 (Claims.sp s + BitVec.ofNat 16 w.bytes) g ∧
      ({ s with regs := g } : State).Puts w e v g' m ∧ exec i s = .next { s with
        regs := g'
        mem := m
        trace := s.trace ++ (s.segRecords .read s.sregs.ss (Claims.sp s) w.bytes ++
          ({ s with regs := g } : State).operandRecords .write w e) }) ∧
  ∀ (s : State) (v : Half), s.segBacked s.sregs.ss (Claims.sp s) 2 → s.Holds s.sregs.ss (Claims.sp s) 2 v →
    ∃ g, s.regs.Wrote .w16 .r4 (Claims.sp s + 2) g ∧
      exec .popEs s = .next { s with
        regs := g
        sregs := { s.sregs with es := v }
        trace := s.trace ++ s.segRecords .read s.sregs.ss (Claims.sp s) 2 } ∧
      exec .popSs s = .next { s with
        regs := g
        sregs := { s.sregs with ss := v }
        trace := s.trace ++ s.segRecords .read s.sregs.ss (Claims.sp s) 2 } ∧
      exec .popDs s = .next { s with
        regs := g
        sregs := { s.sregs with ds := v }
        trace := s.trace ++ s.segRecords .read s.sregs.ss (Claims.sp s) 2 }

/-- A push followed at once by a pop returns the value and leaves SP at its value before, at the wrap points too; so PUSH r
followed by POP r restores every register (R310). -/
def Obligations.PushThenPopRestores : Prop :=
  (∀ (s : State) (w : Width) (v : BitVec w.bits),
    s.segBacked s.sregs.ss (Claims.sp s - BitVec.ofNat 16 w.bytes) w.bytes →
    ∃ t u l l', s.push w v = .ok t l ∧ t.pop w = .ok (v, u) l' ∧ Claims.sp u = Claims.sp s ∧ u.regs = s.regs) ∧
  ∀ (s : State) (r : RegNum),
    s.segBacked s.sregs.ss (Claims.sp s - BitVec.ofNat 16 s.vWidth.bytes) s.vWidth.bytes →
    ∃ t u, exec (.pushR r) s = .next t ∧ exec (.popR r) t = .next u ∧ u.regs = s.regs

/-! ### Control transfer -/

/-- JMP: a relative target, or an offset read from a register or memory, into ip; a far pointer into CS:ip; nothing else
changes (R330 to R333, R359).
What a trace record holds is the model's choice (log 10). -/
def Obligations.JmpTransfersToItsTarget : Prop :=
  (∀ (s : State) (rel : Byte), exec (.jmpJb rel) s = .next { s with ip := Claims.target s rel }) ∧
  (∀ (s : State) (rel : Half), exec (.jmpJv rel) s = .next { s with ip := Claims.target s rel }) ∧
  (∀ (s : State) (e : EOperand) (v : Half), s.operandBacked .w16 e = true → s.Reads .w16 e v →
    exec (.jmpEv e) s = .next { s with ip := v, trace := s.trace ++ s.operandRecords .read .w16 e }) ∧
  (∀ (s : State) (off sel : Half),
    exec (.jmpAp off sel) s = .next { s with ip := off, sregs := { s.sregs with cs := sel } }) ∧
  ∀ (s : State) (m : MemOperand) (off sel : Half), s.segBacked (s.eaSeg m) (s.eaOff m) 4 →
    s.Holds (s.eaSeg m) (s.eaOff m) 4 (sel ++ off) →
    exec (.jmpMp m) s = .next { s with
      ip := off
      sregs := { s.sregs with cs := sel }
      trace := s.trace ++ s.segRecords .read (s.eaSeg m) (s.eaOff m) 4 }

/-- The sixteen conditional jumps: ip becomes the target when the condition holds and stays behind the instruction otherwise;
nothing else changes (R120, R381, R334 to R349). -/
def Obligations.ConditionalJumpsFollowTheirCondition : Prop :=
  ∀ (s : State) (i : Instr) (taken : Prop) (rel : Byte), Claims.Conditional s i taken rel →
    (taken → exec i s = .next { s with ip := Claims.target s rel }) ∧ (¬ taken → exec i s = .next s)

/-- JCXZ jumps when CX is 0; LOOP, LOOPE and LOOPNE decrement CX and jump while it is not 0 and the condition on ZF holds; no
flag is written (R350 to R353). -/
def Obligations.CountRegisterJumps : Prop :=
  (∀ (s : State) (rel : Byte), exec (.jcxz rel) s =
    .next { s with ip := if s.regs.view .w16 .r1 = 0 then Claims.target s rel else s.ip }) ∧
  ∀ (s : State) (i : Instr) (cond : Prop) (rel : Byte) (cx : Half),
    (i = .loop rel ∧ (cond ↔ True) ∨ i = .loope rel ∧ (cond ↔ s.flags.zf = true) ∨
      i = .loopne rel ∧ (cond ↔ s.flags.zf = false)) →
    cx = s.regs.view .w16 .r1 - 1 →
    ∃ g, s.regs.Wrote .w16 .r1 cx g ∧
      (cx ≠ 0 ∧ cond → exec i s = .next { s with regs := g, ip := Claims.target s rel }) ∧
      (¬ (cx ≠ 0 ∧ cond) → exec i s = .next { s with regs := g })

/-- CALL: a near call pushes the offset behind it, a far call CS and then that offset; the target is read before the pushes;
nothing else changes (R355 to R358).
What a trace record holds is the model's choice (log 10). -/
def Obligations.CallPushesTheReturnAddress : Prop :=
  (∀ (s : State) (i : Instr) (t : Half) (l : List TraceRecord), s.segBacked s.sregs.ss (Claims.sp s - 2) 2 →
    ((∃ rel : Half, i = .callJv rel ∧ t = Claims.target s rel ∧ l = []) ∨
      (∃ e, i = .callEv e ∧ s.operandBacked .w16 e = true ∧ s.Reads .w16 e t ∧ l = s.operandRecords .read .w16 e)) →
    ∃ g m, exec i s = .next { s with
        regs := g
        mem := m
        ip := t
        trace := s.trace ++ (l ++ s.segRecords .write s.sregs.ss (Claims.sp s - 2) 2) } ∧
      s.regs.Wrote .w16 .r4 (Claims.sp s - 2) g ∧ s.Stores s.sregs.ss (Claims.sp s - 2) 2 s.ip m) ∧
  ∀ (s : State) (i : Instr) (off sel : Half) (l : List TraceRecord), s.segBacked s.sregs.ss (Claims.sp s - 4) 4 →
    (i = .callAp off sel ∧ l = [] ∨ (∃ o, i = .callMp o ∧ s.segBacked (s.eaSeg o) (s.eaOff o) 4 ∧
      s.Holds (s.eaSeg o) (s.eaOff o) 4 (sel ++ off) ∧ l = s.segRecords .read (s.eaSeg o) (s.eaOff o) 4)) →
    ∃ g m, exec i s = .next { s with
        regs := g
        mem := m
        ip := off
        sregs := { s.sregs with cs := sel }
        trace := s.trace ++ (l ++ (s.segRecords .write s.sregs.ss (Claims.sp s - 2) 2 ++
          s.segRecords .write s.sregs.ss (Claims.sp s - 4) 2)) } ∧
      s.regs.Wrote .w16 .r4 (Claims.sp s - 4) g ∧
      s.Stores s.sregs.ss (Claims.sp s - 4) 4 (s.sregs.cs ++ s.ip) m

/-- RET pops ip, RETF ip and then CS; the forms with Iw release that many bytes more; nothing else changes (R360 to R363).
What a trace record holds is the model's choice (log 10). -/
def Obligations.RetPopsTheReturnAddress : Prop :=
  (∀ (s : State) (i : Instr) (n off : Half), (i = .ret ∧ n = 0 ∨ i = .retIw n) →
    s.segBacked s.sregs.ss (Claims.sp s) 2 → s.Holds s.sregs.ss (Claims.sp s) 2 off →
    ∃ g, exec i s = .next { s with
        regs := g
        ip := off
        trace := s.trace ++ s.segRecords .read s.sregs.ss (Claims.sp s) 2 } ∧
      s.regs.Wrote .w16 .r4 (Claims.sp s + 2 + n) g) ∧
  ∀ (s : State) (i : Instr) (n off sel : Half), (i = .retf ∧ n = 0 ∨ i = .retfIw n) →
    s.segBacked s.sregs.ss (Claims.sp s) 4 → s.Holds s.sregs.ss (Claims.sp s) 4 (sel ++ off) →
    ∃ g, exec i s = .next { s with
        regs := g
        ip := off
        sregs := { s.sregs with cs := sel }
        trace := s.trace ++ s.segRecords .read s.sregs.ss (Claims.sp s) 4 } ∧
      s.regs.Wrote .w16 .r4 (Claims.sp s + 4 + n) g

/-! ### Ports and devices -/

/-- IN (R400, R401, R410, R412, R413, R416, R426): the accumulator gets the answer of the device that owns the starting port,
reduced to the width; all ones from an unmapped port, from a read the device does not implement, and from the configuration
mechanism's data port before any address write. A device's actions, in a handler and in `update()`, change its own line, the
gate and its own internal state, and nothing else but records of its own (R412, R422, R503; which actions there are is read
from the spec, log 26). That answers and actions come from a queue, and a free value answers when it is empty, is the
model's choice (log 7). -/
def Obligations.InReadsTheOwningDevice : Prop :=
  (∀ (s : State) (i : Instr) (w : Width) (p : Half), Claims.ReadsPort s i w p →
    (s.ownerOf p = none → ∃ g, s.regs.Wrote w .r0 (BitVec.allOnes w.bits) g ∧
      exec i s = .next { s with regs := g, busLog := .unmappedRead p w.bytes :: s.busLog }) ∧
    ∀ d, s.ownerOf p = some d →
      (s.stubUnaddressed d p = true → ∃ g, s.regs.Wrote w .r0 (BitVec.allOnes w.bits) g ∧
        exec i s = .next { s with regs := g, busLog := .deviceRead d p w.bytes :: s.busLog }) ∧
      (s.stubUnaddressed d p = false →
        (∀ v as rest, s.replies = .answer v as :: rest → ∃ g u, s.regs.Wrote w .r0 (BitVec.ofNat w.bits v.toNat) g ∧
          u = ({ s with replies := rest, busLog := .deviceRead d p w.bytes :: s.busLog } : State).deviceActions
            d w.bytes as ∧
          exec i s = .next { u with regs := g }) ∧
        (∀ rest, s.replies = .unimplemented :: rest → ∃ g, s.regs.Wrote w .r0 (BitVec.allOnes w.bits) g ∧
          exec i s = .next { s with
            regs := g
            replies := rest
            busLog := .portAccessFault d p w.bytes :: .deviceRead d p w.bytes :: s.busLog }) ∧
        (s.replies = [] → ∃ v g, s.regs.Wrote w .r0 v g ∧
          exec i s = .next { s with
            regs := g
            portCalls := s.portCalls + 1
            busLog := .deviceRead d p w.bytes :: s.busLog }))) ∧
  (∀ (s : State) (d : DeviceId) (n : Nat) (as : List DeviceAction), ∃ pending a20 devices l,
    s.deviceActions d n as = { s with
      pending := pending
      a20 := a20
      devices := devices
      busLog := l ++ s.busLog } ∧
    (∀ k, Assoc.find d s.lineOf ≠ some k → (k ∈ pending ↔ k ∈ s.pending)) ∧
    (∀ d', d' ≠ d → Assoc.find d' devices = Assoc.find d' s.devices) ∧
    ∀ ev ∈ l, ev = .notPresent d) ∧
  ∀ (s : State) (d : DeviceId) (as : List DeviceAction), s.input (.update d as) = .ok (s.deviceActions d 0 as)

/-- OUT (R402, R403, R411, R412, R414, R416, R422): the accumulator goes to the device that owns the starting port; a write
to an unmapped port, or one the device does not implement, has no effect but the record. That the device's actions come
from a queue, with none when it is empty, is the model's choice (log 7). A write that the configuration mechanism
implements at its address port is remembered by it; that this is all an address write changes is read from the spec
(R426, log 25). -/
def Obligations.OutWritesTheOwningDevice : Prop :=
  (∀ (s : State) (i : Instr) (w : Width) (p : Half) (v : Word), Claims.WritesPort s i w p →
    v = BitVec.ofNat 32 (s.regs.view w .r0).toNat →
    (s.ownerOf p = none → exec i s = .next { s with busLog := .unmappedWrite p w.bytes v :: s.busLog }) ∧
    ∀ d, s.ownerOf p = some d →
      (∀ x as rest, s.replies = .answer x as :: rest →
        exec i s = .next ((({ s with replies := rest, busLog := .deviceWrite d p w.bytes v :: s.busLog } :
          State).noteAddressWrite d p).deviceActions d w.bytes as)) ∧
      (∀ rest, s.replies = .unimplemented :: rest → exec i s = .next { s with
        replies := rest
        busLog := .portAccessFault d p w.bytes :: .deviceWrite d p w.bytes v :: s.busLog }) ∧
      (s.replies = [] →
        exec i s = .next (({ s with
          portCalls := s.portCalls + 1
          busLog := .deviceWrite d p w.bytes v :: s.busLog } : State).noteAddressWrite d p))) ∧
  ∀ (s : State) (d : DeviceId) (p : Half), ∃ devices, s.noteAddressWrite d p = { s with devices := devices } ∧
    (∀ d', d' ≠ d → Assoc.find d' devices = Assoc.find d' s.devices) ∧
    (devices ≠ s.devices → Assoc.find d devices = some (.stub true)) ∧
    ∀ x ap dp b k, s.deviceSpec d = some x → x.kind = .configStub ap dp b → p ∈ ap →
      Assoc.find d s.devices = some (.stub k) → Assoc.find d devices = some (.stub true)

/-- CLC, STC, CMC, CLI, STI write their one flag, HLT sets the halt latch, NOP does nothing, and a prefix byte sets its latch;
nothing else changes (R104, R168, R450 to R457). -/
def Obligations.FlagControlHltNopAndPrefixBytes : Prop :=
  ∀ s : State,
    exec .clc s = .next { s with flags := { s.flags with cf := false } } ∧
    exec .stc s = .next { s with flags := { s.flags with cf := true } } ∧
    exec .cmc s = .next { s with flags := { s.flags with cf := !s.flags.cf } } ∧
    exec .cli s = .next { s with flags := { s.flags with ifl := false } } ∧
    exec .sti s = .next { s with flags := { s.flags with ifl := true } } ∧
    exec .hlt s = .next { s with halted := true } ∧
    exec .nop s = .next s ∧
    exec .prefixOpsize s = .next { s with opsizePfx := true } ∧
    exec .prefixEs s = .next { s with segPfx := some .es } ∧
    exec .prefixCs s = .next { s with segPfx := some .cs } ∧
    exec .prefixSs s = .next { s with segPfx := some .ss } ∧
    exec .prefixDs s = .next { s with segPfx := some .ds }

/-- Interrupt lines (R531 to R533, R537): a device that holds a line gets it again; otherwise it gets a free one, the
lowest-numbered without preferences, or none, with a record, when no line is free. `raise` raises a held line and no
other, `clear` clears one. What the actions of a device do, in a port handler and in `update()`, one after the other: raise
and clear act on the device's own line, and do nothing for a device without one; a gate action sets the gate; an event of
the disk channel changes that channel by it, with a record for an operation on an empty slot, and does nothing to any other
device (R36, R412, R422, R503, R532, R533, R550, R558). That `ALLOC_LINE` is a preference list (log 20), and that a device's
answer names the channel's event (log 19), are the model's choices; which actions there are is read from the spec
(log 26). -/
def Obligations.LinesAreRequestedRaisedAndCleared : Prop :=
  (∀ (s : State) (d : DeviceId) (prefs : List Nat) (n : Nat), Assoc.find d s.lineOf = some n →
    s.requestLine d prefs = (s, some n)) ∧
  (∀ (s : State) (d : DeviceId) (prefs : List Nat), Assoc.find d s.lineOf = none →
    (∀ n < s.params.nlines, s.lineHeld n = true) →
    s.requestLine d prefs = ({ s with busLog := .noLine d :: s.busLog }, none)) ∧
  (∀ (s : State) (d : DeviceId) (prefs : List Nat) (n : Nat), Assoc.find d s.lineOf = none → n < s.params.nlines →
    s.lineHeld n = false → ∃ k, k < s.params.nlines ∧ s.lineHeld k = false ∧
      (prefs = [] → k ≤ n) ∧ s.requestLine d prefs = ({ s with lineOf := Assoc.put d k s.lineOf }, some k)) ∧
  (∀ (s : State) (n : Nat), ∃ l, s.raiseLine n = { s with pending := l } ∧
    ∀ m, m ∈ l ↔ m ∈ s.pending ∨ m = n ∧ s.lineHeld n = true) ∧
  (∀ (s : State) (n : Nat), ∃ l, s.clearLine n = { s with pending := l } ∧ ∀ m, m ∈ l ↔ m ∈ s.pending ∧ m ≠ n) ∧
  (∀ (s : State) (d : DeviceId) (n : Nat) (a : DeviceAction) (as : List DeviceAction), s.deviceActions d n [] = s ∧
    s.deviceActions d n (a :: as) = (s.deviceAction d n a).deviceActions d n as) ∧
  (∀ (s : State) (d : DeviceId) (n k : Nat), Assoc.find d s.lineOf = some k →
    (∃ l, s.deviceAction d n .raise = { s with pending := l } ∧ ∀ m, m ∈ l ↔ m ∈ s.pending ∨ m = k) ∧
    ∃ l, s.deviceAction d n .clear = { s with pending := l } ∧ ∀ m, m ∈ l ↔ m ∈ s.pending ∧ m ≠ k) ∧
  (∀ (s : State) (d : DeviceId) (n : Nat), Assoc.find d s.lineOf = none →
    s.deviceAction d n .raise = s ∧ s.deviceAction d n .clear = s) ∧
  (∀ (s : State) (d : DeviceId) (n : Nat) (b : Bool), s.deviceAction d n (.gate b) = { s with a20 := b }) ∧
  (∀ (s : State) (d : DeviceId) (n : Nat) (ev : DiskEvent) (c : DiskChannel),
    Assoc.find d s.devices = some (.disk c) → ∃ devices l,
      s.deviceAction d n (.disk ev) = { s with devices := devices, busLog := l ++ s.busLog } ∧
      Assoc.find d devices = some (.disk (c.event n ev)) ∧
      (∀ d', d' ≠ d → Assoc.find d' devices = Assoc.find d' s.devices) ∧
      (c.isSelectedDrivePresent = false → (∀ b, ev ≠ .select b) → l = [.notPresent d]) ∧
      (c.isSelectedDrivePresent = true ∨ (∃ b, ev = .select b) → l = [])) ∧
  ∀ (s : State) (d : DeviceId) (n : Nat) (ev : DiskEvent), (∀ c, Assoc.find d s.devices ≠ some (.disk c)) →
    s.deviceAction d n (.disk ev) = s

/-- The disk channel. `reset()` (R556, R557, R559): every present drive Idle with busy, error and data-request 0, drive-ready
and seek-complete 1; an empty slot as it was; the primary slot selected; with no drives attached no drive is present.
Transitions (R553 to R555): a command takes Idle to Busy, data ready takes Busy to DataTransfer, each byte or word moved
(1 or 2 bytes) lowers the count and reaching 0 gives Idle, a fault gives Error with the error field set, an acknowledging
command takes Error to Idle, and of the channel's events no other leaves Error (that acknowledging clears the error field
is the model's choice, log 18). An event of the channel other than selecting is the selected drive's, when there is one: the
other slot and the selected index stay as they were (R550, R557); an operation on an empty slot changes nothing of the
channel (R558). A slot is present when its type is not None (R559). -/
def Obligations.DiskChannelFollowsItsStates : Prop :=
  (∀ c : DiskChannel, c.reset.slaveSelected = false ∧
    ∀ d d', (d = c.slot0 ∧ d' = c.reset.slot0 ∨ d = c.slot1 ∧ d' = c.reset.slot1) →
      (d.kind = .none → d' = d) ∧
      (d.kind = .disk → d'.kind = .disk ∧ d'.state = .idle ∧ d'.status = { d.status with
        busy := false, error := false, dataRequest := false, driveReady := true, seekComplete := true })) ∧
  (∀ c : DiskChannel, c.slot0.kind = .none → c.slot1.kind = .none →
    c.reset.isAnyDrivePresent = false ∧ c.reset.isSelectedDrivePresent = false) ∧
  (∀ (c : DiskChannel) (n : Nat) (slave : Bool), c.event n (.select slave) = { c with slaveSelected := slave } ∧
    (c.event n (.select slave)).visibleStatus = (if slave then c.slot1.status else c.slot0.status)) ∧
  (∀ (d : Drive) (k : Nat), d.state = .idle → (d.event k .command).state = .busy ∧
    (d.event k .command).status.busy = true) ∧
  (∀ (d : Drive) (k n : Nat), d.state = .busy → n ≠ 0 → (d.event k (.dataReady n)).state = .dataTransfer n ∧
    (d.event k (.dataReady n)).status.dataRequest = true ∧ (d.event k (.dataReady n)).status.busy = false) ∧
  (∀ (d : Drive) (k n : Nat), (k = 1 ∨ k = 2) → d.state = .dataTransfer n → k < n →
    (d.event k .transfer).state = .dataTransfer (n - k)) ∧
  (∀ (d : Drive) (k n : Nat), (k = 1 ∨ k = 2) → d.state = .dataTransfer n → n ≤ k → (d.event k .transfer).state = .idle ∧
    (d.event k .transfer).status.dataRequest = false) ∧
  (∀ (d : Drive) (k : Nat), (d.event k .fault).state = .error ∧ (d.event k .fault).status.error = true) ∧
  (∀ (d : Drive) (k : Nat), d.state = .error → (d.event k .acknowledge).state = .idle ∧
    (d.event k .acknowledge).status.error = false) ∧
  (∀ (d : Drive) (k : Nat) (ev : DiskEvent), d.state = .error → ev ≠ .acknowledge → (d.event k ev).state = .error) ∧
  (∀ (c : DiskChannel) (k : Nat) (ev : DiskEvent), (∀ b, ev ≠ .select b) →
    (c.slaveSelected = false → c.slot0.kind = .disk → c.event k ev = { c with slot0 := c.slot0.event k ev }) ∧
    (c.slaveSelected = true → c.slot1.kind = .disk → c.event k ev = { c with slot1 := c.slot1.event k ev }) ∧
    (c.slaveSelected = false → c.slot0.kind = .none → c.event k ev = c) ∧
    (c.slaveSelected = true → c.slot1.kind = .none → c.event k ev = c)) ∧
  (∀ (d : Drive) (k : Nat) (ev : DiskEvent), (d.event k ev).kind = d.kind) ∧
  (∀ c : DiskChannel, (c.isAnyDrivePresent = true ↔ c.slot0.kind = .disk ∨ c.slot1.kind = .disk) ∧
    (c.isSelectedDrivePresent = true ↔ (if c.slaveSelected then c.slot1.kind else c.slot0.kind) = .disk)) ∧
  ∀ (c : DiskChannel) (k : Nat) (ev : DiskEvent), c.isSelectedDrivePresent = false →
    (c.event k ev).slot0 = c.slot0 ∧ (c.event k ev).slot1 = c.slot1
end

