-- ==== Sys2Proof/Laws/State.lean ====
section
/-! SUPPORT. One lemma per field for each update of State, so that no proof unfolds a record update. -/

namespace Sys2Proof.Machine

section
variable (s : State)

@[simp] theorem State.writeReg_regs (w : Width) (i : RegNum) (v : BitVec w.bits) : (s.writeReg w i v).regs = s.regs.write w i v := rfl
@[simp] theorem State.writeReg_sregs (w : Width) (i : RegNum) (v : BitVec w.bits) : (s.writeReg w i v).sregs = s.sregs := rfl
@[simp] theorem State.writeReg_ip (w : Width) (i : RegNum) (v : BitVec w.bits) : (s.writeReg w i v).ip = s.ip := rfl
@[simp] theorem State.writeReg_ipStart (w : Width) (i : RegNum) (v : BitVec w.bits) : (s.writeReg w i v).ipStart = s.ipStart := rfl
@[simp] theorem State.writeReg_flags (w : Width) (i : RegNum) (v : BitVec w.bits) : (s.writeReg w i v).flags = s.flags := rfl
@[simp] theorem State.writeReg_opsizePfx (w : Width) (i : RegNum) (v : BitVec w.bits) : (s.writeReg w i v).opsizePfx = s.opsizePfx := rfl
@[simp] theorem State.writeReg_segPfx (w : Width) (i : RegNum) (v : BitVec w.bits) : (s.writeReg w i v).segPfx = s.segPfx := rfl
@[simp] theorem State.writeReg_halted (w : Width) (i : RegNum) (v : BitVec w.bits) : (s.writeReg w i v).halted = s.halted := rfl
@[simp] theorem State.writeReg_mem (w : Width) (i : RegNum) (v : BitVec w.bits) : (s.writeReg w i v).mem = s.mem := rfl
@[simp] theorem State.writeReg_a20 (w : Width) (i : RegNum) (v : BitVec w.bits) : (s.writeReg w i v).a20 = s.a20 := rfl
@[simp] theorem State.writeReg_owner (w : Width) (i : RegNum) (v : BitVec w.bits) : (s.writeReg w i v).owner = s.owner := rfl
@[simp] theorem State.writeReg_lineOf (w : Width) (i : RegNum) (v : BitVec w.bits) : (s.writeReg w i v).lineOf = s.lineOf := rfl
@[simp] theorem State.writeReg_pending (w : Width) (i : RegNum) (v : BitVec w.bits) : (s.writeReg w i v).pending = s.pending := rfl
@[simp] theorem State.writeReg_watch (w : Width) (i : RegNum) (v : BitVec w.bits) : (s.writeReg w i v).watch = s.watch := rfl
@[simp] theorem State.writeReg_devices (w : Width) (i : RegNum) (v : BitVec w.bits) : (s.writeReg w i v).devices = s.devices := rfl
@[simp] theorem State.writeReg_params (w : Width) (i : RegNum) (v : BitVec w.bits) : (s.writeReg w i v).params = s.params := rfl
@[simp] theorem State.writeReg_phases (w : Width) (i : RegNum) (v : BitVec w.bits) : (s.writeReg w i v).phases = s.phases := rfl
@[simp] theorem State.writeReg_replies (w : Width) (i : RegNum) (v : BitVec w.bits) : (s.writeReg w i v).replies = s.replies := rfl
@[simp] theorem State.writeReg_portCalls (w : Width) (i : RegNum) (v : BitVec w.bits) : (s.writeReg w i v).portCalls = s.portCalls := rfl
@[simp] theorem State.writeReg_busLog (w : Width) (i : RegNum) (v : BitVec w.bits) : (s.writeReg w i v).busLog = s.busLog := rfl
@[simp] theorem State.writeReg_trace (w : Width) (i : RegNum) (v : BitVec w.bits) : (s.writeReg w i v).trace = s.trace := rfl

@[simp] theorem State.setSp_regs (v : Half) : (s.setSp v).regs = s.regs.write .w16 .r4 v := rfl
@[simp] theorem State.setSp_sregs (v : Half) : (s.setSp v).sregs = s.sregs := rfl
@[simp] theorem State.setSp_ip (v : Half) : (s.setSp v).ip = s.ip := rfl
@[simp] theorem State.setSp_ipStart (v : Half) : (s.setSp v).ipStart = s.ipStart := rfl
@[simp] theorem State.setSp_flags (v : Half) : (s.setSp v).flags = s.flags := rfl
@[simp] theorem State.setSp_opsizePfx (v : Half) : (s.setSp v).opsizePfx = s.opsizePfx := rfl
@[simp] theorem State.setSp_segPfx (v : Half) : (s.setSp v).segPfx = s.segPfx := rfl
@[simp] theorem State.setSp_halted (v : Half) : (s.setSp v).halted = s.halted := rfl
@[simp] theorem State.setSp_mem (v : Half) : (s.setSp v).mem = s.mem := rfl
@[simp] theorem State.setSp_a20 (v : Half) : (s.setSp v).a20 = s.a20 := rfl
@[simp] theorem State.setSp_owner (v : Half) : (s.setSp v).owner = s.owner := rfl
@[simp] theorem State.setSp_lineOf (v : Half) : (s.setSp v).lineOf = s.lineOf := rfl
@[simp] theorem State.setSp_pending (v : Half) : (s.setSp v).pending = s.pending := rfl
@[simp] theorem State.setSp_watch (v : Half) : (s.setSp v).watch = s.watch := rfl
@[simp] theorem State.setSp_devices (v : Half) : (s.setSp v).devices = s.devices := rfl
@[simp] theorem State.setSp_params (v : Half) : (s.setSp v).params = s.params := rfl
@[simp] theorem State.setSp_phases (v : Half) : (s.setSp v).phases = s.phases := rfl
@[simp] theorem State.setSp_replies (v : Half) : (s.setSp v).replies = s.replies := rfl
@[simp] theorem State.setSp_portCalls (v : Half) : (s.setSp v).portCalls = s.portCalls := rfl
@[simp] theorem State.setSp_busLog (v : Half) : (s.setSp v).busLog = s.busLog := rfl
@[simp] theorem State.setSp_trace (v : Half) : (s.setSp v).trace = s.trace := rfl

@[simp] theorem State.setSreg_regs (i : SReg) (v : Half) : (s.setSreg i v).regs = s.regs := rfl
@[simp] theorem State.setSreg_sregs (i : SReg) (v : Half) : (s.setSreg i v).sregs = s.sregs.set i v := rfl
@[simp] theorem State.setSreg_ip (i : SReg) (v : Half) : (s.setSreg i v).ip = s.ip := rfl
@[simp] theorem State.setSreg_ipStart (i : SReg) (v : Half) : (s.setSreg i v).ipStart = s.ipStart := rfl
@[simp] theorem State.setSreg_flags (i : SReg) (v : Half) : (s.setSreg i v).flags = s.flags := rfl
@[simp] theorem State.setSreg_opsizePfx (i : SReg) (v : Half) : (s.setSreg i v).opsizePfx = s.opsizePfx := rfl
@[simp] theorem State.setSreg_segPfx (i : SReg) (v : Half) : (s.setSreg i v).segPfx = s.segPfx := rfl
@[simp] theorem State.setSreg_halted (i : SReg) (v : Half) : (s.setSreg i v).halted = s.halted := rfl
@[simp] theorem State.setSreg_mem (i : SReg) (v : Half) : (s.setSreg i v).mem = s.mem := rfl
@[simp] theorem State.setSreg_a20 (i : SReg) (v : Half) : (s.setSreg i v).a20 = s.a20 := rfl
@[simp] theorem State.setSreg_owner (i : SReg) (v : Half) : (s.setSreg i v).owner = s.owner := rfl
@[simp] theorem State.setSreg_lineOf (i : SReg) (v : Half) : (s.setSreg i v).lineOf = s.lineOf := rfl
@[simp] theorem State.setSreg_pending (i : SReg) (v : Half) : (s.setSreg i v).pending = s.pending := rfl
@[simp] theorem State.setSreg_watch (i : SReg) (v : Half) : (s.setSreg i v).watch = s.watch := rfl
@[simp] theorem State.setSreg_devices (i : SReg) (v : Half) : (s.setSreg i v).devices = s.devices := rfl
@[simp] theorem State.setSreg_params (i : SReg) (v : Half) : (s.setSreg i v).params = s.params := rfl
@[simp] theorem State.setSreg_phases (i : SReg) (v : Half) : (s.setSreg i v).phases = s.phases := rfl
@[simp] theorem State.setSreg_replies (i : SReg) (v : Half) : (s.setSreg i v).replies = s.replies := rfl
@[simp] theorem State.setSreg_portCalls (i : SReg) (v : Half) : (s.setSreg i v).portCalls = s.portCalls := rfl
@[simp] theorem State.setSreg_busLog (i : SReg) (v : Half) : (s.setSreg i v).busLog = s.busLog := rfl
@[simp] theorem State.setSreg_trace (i : SReg) (v : Half) : (s.setSreg i v).trace = s.trace := rfl

@[simp] theorem State.setIp_regs (v : Half) : (s.setIp v).regs = s.regs := rfl
@[simp] theorem State.setIp_sregs (v : Half) : (s.setIp v).sregs = s.sregs := rfl
@[simp] theorem State.setIp_ip (v : Half) : (s.setIp v).ip = v := rfl
@[simp] theorem State.setIp_ipStart (v : Half) : (s.setIp v).ipStart = s.ipStart := rfl
@[simp] theorem State.setIp_flags (v : Half) : (s.setIp v).flags = s.flags := rfl
@[simp] theorem State.setIp_opsizePfx (v : Half) : (s.setIp v).opsizePfx = s.opsizePfx := rfl
@[simp] theorem State.setIp_segPfx (v : Half) : (s.setIp v).segPfx = s.segPfx := rfl
@[simp] theorem State.setIp_halted (v : Half) : (s.setIp v).halted = s.halted := rfl
@[simp] theorem State.setIp_mem (v : Half) : (s.setIp v).mem = s.mem := rfl
@[simp] theorem State.setIp_a20 (v : Half) : (s.setIp v).a20 = s.a20 := rfl
@[simp] theorem State.setIp_owner (v : Half) : (s.setIp v).owner = s.owner := rfl
@[simp] theorem State.setIp_lineOf (v : Half) : (s.setIp v).lineOf = s.lineOf := rfl
@[simp] theorem State.setIp_pending (v : Half) : (s.setIp v).pending = s.pending := rfl
@[simp] theorem State.setIp_watch (v : Half) : (s.setIp v).watch = s.watch := rfl
@[simp] theorem State.setIp_devices (v : Half) : (s.setIp v).devices = s.devices := rfl
@[simp] theorem State.setIp_params (v : Half) : (s.setIp v).params = s.params := rfl
@[simp] theorem State.setIp_phases (v : Half) : (s.setIp v).phases = s.phases := rfl
@[simp] theorem State.setIp_replies (v : Half) : (s.setIp v).replies = s.replies := rfl
@[simp] theorem State.setIp_portCalls (v : Half) : (s.setIp v).portCalls = s.portCalls := rfl
@[simp] theorem State.setIp_busLog (v : Half) : (s.setIp v).busLog = s.busLog := rfl
@[simp] theorem State.setIp_trace (v : Half) : (s.setIp v).trace = s.trace := rfl

@[simp] theorem State.setCsIp_regs (sel off : Half) : (s.setCsIp sel off).regs = s.regs := rfl
@[simp] theorem State.setCsIp_sregs (sel off : Half) : (s.setCsIp sel off).sregs = s.sregs.set .cs sel := rfl
@[simp] theorem State.setCsIp_ip (sel off : Half) : (s.setCsIp sel off).ip = off := rfl
@[simp] theorem State.setCsIp_ipStart (sel off : Half) : (s.setCsIp sel off).ipStart = s.ipStart := rfl
@[simp] theorem State.setCsIp_flags (sel off : Half) : (s.setCsIp sel off).flags = s.flags := rfl
@[simp] theorem State.setCsIp_opsizePfx (sel off : Half) : (s.setCsIp sel off).opsizePfx = s.opsizePfx := rfl
@[simp] theorem State.setCsIp_segPfx (sel off : Half) : (s.setCsIp sel off).segPfx = s.segPfx := rfl
@[simp] theorem State.setCsIp_halted (sel off : Half) : (s.setCsIp sel off).halted = s.halted := rfl
@[simp] theorem State.setCsIp_mem (sel off : Half) : (s.setCsIp sel off).mem = s.mem := rfl
@[simp] theorem State.setCsIp_a20 (sel off : Half) : (s.setCsIp sel off).a20 = s.a20 := rfl
@[simp] theorem State.setCsIp_owner (sel off : Half) : (s.setCsIp sel off).owner = s.owner := rfl
@[simp] theorem State.setCsIp_lineOf (sel off : Half) : (s.setCsIp sel off).lineOf = s.lineOf := rfl
@[simp] theorem State.setCsIp_pending (sel off : Half) : (s.setCsIp sel off).pending = s.pending := rfl
@[simp] theorem State.setCsIp_watch (sel off : Half) : (s.setCsIp sel off).watch = s.watch := rfl
@[simp] theorem State.setCsIp_devices (sel off : Half) : (s.setCsIp sel off).devices = s.devices := rfl
@[simp] theorem State.setCsIp_params (sel off : Half) : (s.setCsIp sel off).params = s.params := rfl
@[simp] theorem State.setCsIp_phases (sel off : Half) : (s.setCsIp sel off).phases = s.phases := rfl
@[simp] theorem State.setCsIp_replies (sel off : Half) : (s.setCsIp sel off).replies = s.replies := rfl
@[simp] theorem State.setCsIp_portCalls (sel off : Half) : (s.setCsIp sel off).portCalls = s.portCalls := rfl
@[simp] theorem State.setCsIp_busLog (sel off : Half) : (s.setCsIp sel off).busLog = s.busLog := rfl
@[simp] theorem State.setCsIp_trace (sel off : Half) : (s.setCsIp sel off).trace = s.trace := rfl

@[simp] theorem State.setFlags_regs (f : Flags) : (s.setFlags f).regs = s.regs := rfl
@[simp] theorem State.setFlags_sregs (f : Flags) : (s.setFlags f).sregs = s.sregs := rfl
@[simp] theorem State.setFlags_ip (f : Flags) : (s.setFlags f).ip = s.ip := rfl
@[simp] theorem State.setFlags_ipStart (f : Flags) : (s.setFlags f).ipStart = s.ipStart := rfl
@[simp] theorem State.setFlags_flags (f : Flags) : (s.setFlags f).flags = f := rfl
@[simp] theorem State.setFlags_opsizePfx (f : Flags) : (s.setFlags f).opsizePfx = s.opsizePfx := rfl
@[simp] theorem State.setFlags_segPfx (f : Flags) : (s.setFlags f).segPfx = s.segPfx := rfl
@[simp] theorem State.setFlags_halted (f : Flags) : (s.setFlags f).halted = s.halted := rfl
@[simp] theorem State.setFlags_mem (f : Flags) : (s.setFlags f).mem = s.mem := rfl
@[simp] theorem State.setFlags_a20 (f : Flags) : (s.setFlags f).a20 = s.a20 := rfl
@[simp] theorem State.setFlags_owner (f : Flags) : (s.setFlags f).owner = s.owner := rfl
@[simp] theorem State.setFlags_lineOf (f : Flags) : (s.setFlags f).lineOf = s.lineOf := rfl
@[simp] theorem State.setFlags_pending (f : Flags) : (s.setFlags f).pending = s.pending := rfl
@[simp] theorem State.setFlags_watch (f : Flags) : (s.setFlags f).watch = s.watch := rfl
@[simp] theorem State.setFlags_devices (f : Flags) : (s.setFlags f).devices = s.devices := rfl
@[simp] theorem State.setFlags_params (f : Flags) : (s.setFlags f).params = s.params := rfl
@[simp] theorem State.setFlags_phases (f : Flags) : (s.setFlags f).phases = s.phases := rfl
@[simp] theorem State.setFlags_replies (f : Flags) : (s.setFlags f).replies = s.replies := rfl
@[simp] theorem State.setFlags_portCalls (f : Flags) : (s.setFlags f).portCalls = s.portCalls := rfl
@[simp] theorem State.setFlags_busLog (f : Flags) : (s.setFlags f).busLog = s.busLog := rfl
@[simp] theorem State.setFlags_trace (f : Flags) : (s.setFlags f).trace = s.trace := rfl

@[simp] theorem State.advance_regs (n : Nat) : (s.advance n).regs = s.regs := rfl
@[simp] theorem State.advance_sregs (n : Nat) : (s.advance n).sregs = s.sregs := rfl
@[simp] theorem State.advance_ip (n : Nat) : (s.advance n).ip = s.ip + BitVec.ofNat 16 n := rfl
@[simp] theorem State.advance_ipStart (n : Nat) : (s.advance n).ipStart = s.ipStart := rfl
@[simp] theorem State.advance_flags (n : Nat) : (s.advance n).flags = s.flags := rfl
@[simp] theorem State.advance_opsizePfx (n : Nat) : (s.advance n).opsizePfx = s.opsizePfx := rfl
@[simp] theorem State.advance_segPfx (n : Nat) : (s.advance n).segPfx = s.segPfx := rfl
@[simp] theorem State.advance_halted (n : Nat) : (s.advance n).halted = s.halted := rfl
@[simp] theorem State.advance_mem (n : Nat) : (s.advance n).mem = s.mem := rfl
@[simp] theorem State.advance_a20 (n : Nat) : (s.advance n).a20 = s.a20 := rfl
@[simp] theorem State.advance_owner (n : Nat) : (s.advance n).owner = s.owner := rfl
@[simp] theorem State.advance_lineOf (n : Nat) : (s.advance n).lineOf = s.lineOf := rfl
@[simp] theorem State.advance_pending (n : Nat) : (s.advance n).pending = s.pending := rfl
@[simp] theorem State.advance_watch (n : Nat) : (s.advance n).watch = s.watch := rfl
@[simp] theorem State.advance_devices (n : Nat) : (s.advance n).devices = s.devices := rfl
@[simp] theorem State.advance_params (n : Nat) : (s.advance n).params = s.params := rfl
@[simp] theorem State.advance_phases (n : Nat) : (s.advance n).phases = s.phases := rfl
@[simp] theorem State.advance_replies (n : Nat) : (s.advance n).replies = s.replies := rfl
@[simp] theorem State.advance_portCalls (n : Nat) : (s.advance n).portCalls = s.portCalls := rfl
@[simp] theorem State.advance_busLog (n : Nat) : (s.advance n).busLog = s.busLog := rfl
@[simp] theorem State.advance_trace (n : Nat) : (s.advance n).trace = s.trace ++ s.fetchRecords n s.ip := rfl

@[simp] theorem State.emit_regs (l : List TraceRecord) : (s.emit l).regs = s.regs := rfl
@[simp] theorem State.emit_sregs (l : List TraceRecord) : (s.emit l).sregs = s.sregs := rfl
@[simp] theorem State.emit_ip (l : List TraceRecord) : (s.emit l).ip = s.ip := rfl
@[simp] theorem State.emit_ipStart (l : List TraceRecord) : (s.emit l).ipStart = s.ipStart := rfl
@[simp] theorem State.emit_flags (l : List TraceRecord) : (s.emit l).flags = s.flags := rfl
@[simp] theorem State.emit_opsizePfx (l : List TraceRecord) : (s.emit l).opsizePfx = s.opsizePfx := rfl
@[simp] theorem State.emit_segPfx (l : List TraceRecord) : (s.emit l).segPfx = s.segPfx := rfl
@[simp] theorem State.emit_halted (l : List TraceRecord) : (s.emit l).halted = s.halted := rfl
@[simp] theorem State.emit_mem (l : List TraceRecord) : (s.emit l).mem = s.mem := rfl
@[simp] theorem State.emit_a20 (l : List TraceRecord) : (s.emit l).a20 = s.a20 := rfl
@[simp] theorem State.emit_owner (l : List TraceRecord) : (s.emit l).owner = s.owner := rfl
@[simp] theorem State.emit_lineOf (l : List TraceRecord) : (s.emit l).lineOf = s.lineOf := rfl
@[simp] theorem State.emit_pending (l : List TraceRecord) : (s.emit l).pending = s.pending := rfl
@[simp] theorem State.emit_watch (l : List TraceRecord) : (s.emit l).watch = s.watch := rfl
@[simp] theorem State.emit_devices (l : List TraceRecord) : (s.emit l).devices = s.devices := rfl
@[simp] theorem State.emit_params (l : List TraceRecord) : (s.emit l).params = s.params := rfl
@[simp] theorem State.emit_phases (l : List TraceRecord) : (s.emit l).phases = s.phases := rfl
@[simp] theorem State.emit_replies (l : List TraceRecord) : (s.emit l).replies = s.replies := rfl
@[simp] theorem State.emit_portCalls (l : List TraceRecord) : (s.emit l).portCalls = s.portCalls := rfl
@[simp] theorem State.emit_busLog (l : List TraceRecord) : (s.emit l).busLog = s.busLog := rfl
@[simp] theorem State.emit_trace (l : List TraceRecord) : (s.emit l).trace = s.trace ++ l := rfl

@[simp] theorem State.startDecode_regs : (s.startDecode).regs = s.regs := rfl
@[simp] theorem State.startDecode_sregs : (s.startDecode).sregs = s.sregs := rfl
@[simp] theorem State.startDecode_ip : (s.startDecode).ip = s.ip := rfl
@[simp] theorem State.startDecode_ipStart : (s.startDecode).ipStart = s.ip := rfl
@[simp] theorem State.startDecode_flags : (s.startDecode).flags = s.flags := rfl
@[simp] theorem State.startDecode_opsizePfx : (s.startDecode).opsizePfx = false := rfl
@[simp] theorem State.startDecode_segPfx : (s.startDecode).segPfx = none := rfl
@[simp] theorem State.startDecode_halted : (s.startDecode).halted = s.halted := rfl
@[simp] theorem State.startDecode_mem : (s.startDecode).mem = s.mem := rfl
@[simp] theorem State.startDecode_a20 : (s.startDecode).a20 = s.a20 := rfl
@[simp] theorem State.startDecode_owner : (s.startDecode).owner = s.owner := rfl
@[simp] theorem State.startDecode_lineOf : (s.startDecode).lineOf = s.lineOf := rfl
@[simp] theorem State.startDecode_pending : (s.startDecode).pending = s.pending := rfl
@[simp] theorem State.startDecode_watch : (s.startDecode).watch = s.watch := rfl
@[simp] theorem State.startDecode_devices : (s.startDecode).devices = s.devices := rfl
@[simp] theorem State.startDecode_params : (s.startDecode).params = s.params := rfl
@[simp] theorem State.startDecode_phases : (s.startDecode).phases = s.phases := rfl
@[simp] theorem State.startDecode_replies : (s.startDecode).replies = s.replies := rfl
@[simp] theorem State.startDecode_portCalls : (s.startDecode).portCalls = s.portCalls := rfl
@[simp] theorem State.startDecode_busLog : (s.startDecode).busLog = s.busLog := rfl
@[simp] theorem State.startDecode_trace : (s.startDecode).trace = s.trace := rfl

@[simp] theorem State.log_regs (ev : BusEvent) : (s.log ev).regs = s.regs := rfl
@[simp] theorem State.log_sregs (ev : BusEvent) : (s.log ev).sregs = s.sregs := rfl
@[simp] theorem State.log_ip (ev : BusEvent) : (s.log ev).ip = s.ip := rfl
@[simp] theorem State.log_ipStart (ev : BusEvent) : (s.log ev).ipStart = s.ipStart := rfl
@[simp] theorem State.log_flags (ev : BusEvent) : (s.log ev).flags = s.flags := rfl
@[simp] theorem State.log_opsizePfx (ev : BusEvent) : (s.log ev).opsizePfx = s.opsizePfx := rfl
@[simp] theorem State.log_segPfx (ev : BusEvent) : (s.log ev).segPfx = s.segPfx := rfl
@[simp] theorem State.log_halted (ev : BusEvent) : (s.log ev).halted = s.halted := rfl
@[simp] theorem State.log_mem (ev : BusEvent) : (s.log ev).mem = s.mem := rfl
@[simp] theorem State.log_a20 (ev : BusEvent) : (s.log ev).a20 = s.a20 := rfl
@[simp] theorem State.log_owner (ev : BusEvent) : (s.log ev).owner = s.owner := rfl
@[simp] theorem State.log_lineOf (ev : BusEvent) : (s.log ev).lineOf = s.lineOf := rfl
@[simp] theorem State.log_pending (ev : BusEvent) : (s.log ev).pending = s.pending := rfl
@[simp] theorem State.log_watch (ev : BusEvent) : (s.log ev).watch = s.watch := rfl
@[simp] theorem State.log_devices (ev : BusEvent) : (s.log ev).devices = s.devices := rfl
@[simp] theorem State.log_params (ev : BusEvent) : (s.log ev).params = s.params := rfl
@[simp] theorem State.log_phases (ev : BusEvent) : (s.log ev).phases = s.phases := rfl
@[simp] theorem State.log_replies (ev : BusEvent) : (s.log ev).replies = s.replies := rfl
@[simp] theorem State.log_portCalls (ev : BusEvent) : (s.log ev).portCalls = s.portCalls := rfl
@[simp] theorem State.log_busLog (ev : BusEvent) : (s.log ev).busLog = ev :: s.busLog := rfl
@[simp] theorem State.log_trace (ev : BusEvent) : (s.log ev).trace = s.trace := rfl

@[simp] theorem State.registerPort_regs (d : DeviceId) (p : Half) : (s.registerPort d p).regs = s.regs := rfl
@[simp] theorem State.registerPort_sregs (d : DeviceId) (p : Half) : (s.registerPort d p).sregs = s.sregs := rfl
@[simp] theorem State.registerPort_ip (d : DeviceId) (p : Half) : (s.registerPort d p).ip = s.ip := rfl
@[simp] theorem State.registerPort_ipStart (d : DeviceId) (p : Half) : (s.registerPort d p).ipStart = s.ipStart := rfl
@[simp] theorem State.registerPort_flags (d : DeviceId) (p : Half) : (s.registerPort d p).flags = s.flags := rfl
@[simp] theorem State.registerPort_opsizePfx (d : DeviceId) (p : Half) : (s.registerPort d p).opsizePfx = s.opsizePfx := rfl
@[simp] theorem State.registerPort_segPfx (d : DeviceId) (p : Half) : (s.registerPort d p).segPfx = s.segPfx := rfl
@[simp] theorem State.registerPort_halted (d : DeviceId) (p : Half) : (s.registerPort d p).halted = s.halted := rfl
@[simp] theorem State.registerPort_mem (d : DeviceId) (p : Half) : (s.registerPort d p).mem = s.mem := rfl
@[simp] theorem State.registerPort_a20 (d : DeviceId) (p : Half) : (s.registerPort d p).a20 = s.a20 := rfl
@[simp] theorem State.registerPort_owner (d : DeviceId) (p : Half) : (s.registerPort d p).owner = Assoc.put p.toNat d s.owner := rfl
@[simp] theorem State.registerPort_lineOf (d : DeviceId) (p : Half) : (s.registerPort d p).lineOf = s.lineOf := rfl
@[simp] theorem State.registerPort_pending (d : DeviceId) (p : Half) : (s.registerPort d p).pending = s.pending := rfl
@[simp] theorem State.registerPort_watch (d : DeviceId) (p : Half) : (s.registerPort d p).watch = s.watch := rfl
@[simp] theorem State.registerPort_devices (d : DeviceId) (p : Half) : (s.registerPort d p).devices = s.devices := rfl
@[simp] theorem State.registerPort_params (d : DeviceId) (p : Half) : (s.registerPort d p).params = s.params := rfl
@[simp] theorem State.registerPort_phases (d : DeviceId) (p : Half) : (s.registerPort d p).phases = s.phases := rfl
@[simp] theorem State.registerPort_replies (d : DeviceId) (p : Half) : (s.registerPort d p).replies = s.replies := rfl
@[simp] theorem State.registerPort_portCalls (d : DeviceId) (p : Half) : (s.registerPort d p).portCalls = s.portCalls := rfl
@[simp] theorem State.registerPort_busLog (d : DeviceId) (p : Half) : (s.registerPort d p).busLog = s.busLog := rfl
@[simp] theorem State.registerPort_trace (d : DeviceId) (p : Half) : (s.registerPort d p).trace = s.trace := rfl

@[simp] theorem State.unregisterPort_regs (p : Half) : (s.unregisterPort p).regs = s.regs := rfl
@[simp] theorem State.unregisterPort_sregs (p : Half) : (s.unregisterPort p).sregs = s.sregs := rfl
@[simp] theorem State.unregisterPort_ip (p : Half) : (s.unregisterPort p).ip = s.ip := rfl
@[simp] theorem State.unregisterPort_ipStart (p : Half) : (s.unregisterPort p).ipStart = s.ipStart := rfl
@[simp] theorem State.unregisterPort_flags (p : Half) : (s.unregisterPort p).flags = s.flags := rfl
@[simp] theorem State.unregisterPort_opsizePfx (p : Half) : (s.unregisterPort p).opsizePfx = s.opsizePfx := rfl
@[simp] theorem State.unregisterPort_segPfx (p : Half) : (s.unregisterPort p).segPfx = s.segPfx := rfl
@[simp] theorem State.unregisterPort_halted (p : Half) : (s.unregisterPort p).halted = s.halted := rfl
@[simp] theorem State.unregisterPort_mem (p : Half) : (s.unregisterPort p).mem = s.mem := rfl
@[simp] theorem State.unregisterPort_a20 (p : Half) : (s.unregisterPort p).a20 = s.a20 := rfl
@[simp] theorem State.unregisterPort_owner (p : Half) : (s.unregisterPort p).owner = Assoc.erase p.toNat s.owner := rfl
@[simp] theorem State.unregisterPort_lineOf (p : Half) : (s.unregisterPort p).lineOf = s.lineOf := rfl
@[simp] theorem State.unregisterPort_pending (p : Half) : (s.unregisterPort p).pending = s.pending := rfl
@[simp] theorem State.unregisterPort_watch (p : Half) : (s.unregisterPort p).watch = s.watch := rfl
@[simp] theorem State.unregisterPort_devices (p : Half) : (s.unregisterPort p).devices = s.devices := rfl
@[simp] theorem State.unregisterPort_params (p : Half) : (s.unregisterPort p).params = s.params := rfl
@[simp] theorem State.unregisterPort_phases (p : Half) : (s.unregisterPort p).phases = s.phases := rfl
@[simp] theorem State.unregisterPort_replies (p : Half) : (s.unregisterPort p).replies = s.replies := rfl
@[simp] theorem State.unregisterPort_portCalls (p : Half) : (s.unregisterPort p).portCalls = s.portCalls := rfl
@[simp] theorem State.unregisterPort_busLog (p : Half) : (s.unregisterPort p).busLog = s.busLog := rfl
@[simp] theorem State.unregisterPort_trace (p : Half) : (s.unregisterPort p).trace = s.trace := rfl

@[simp] theorem State.clearLine_regs (n : Nat) : (s.clearLine n).regs = s.regs := rfl
@[simp] theorem State.clearLine_sregs (n : Nat) : (s.clearLine n).sregs = s.sregs := rfl
@[simp] theorem State.clearLine_ip (n : Nat) : (s.clearLine n).ip = s.ip := rfl
@[simp] theorem State.clearLine_ipStart (n : Nat) : (s.clearLine n).ipStart = s.ipStart := rfl
@[simp] theorem State.clearLine_flags (n : Nat) : (s.clearLine n).flags = s.flags := rfl
@[simp] theorem State.clearLine_opsizePfx (n : Nat) : (s.clearLine n).opsizePfx = s.opsizePfx := rfl
@[simp] theorem State.clearLine_segPfx (n : Nat) : (s.clearLine n).segPfx = s.segPfx := rfl
@[simp] theorem State.clearLine_halted (n : Nat) : (s.clearLine n).halted = s.halted := rfl
@[simp] theorem State.clearLine_mem (n : Nat) : (s.clearLine n).mem = s.mem := rfl
@[simp] theorem State.clearLine_a20 (n : Nat) : (s.clearLine n).a20 = s.a20 := rfl
@[simp] theorem State.clearLine_owner (n : Nat) : (s.clearLine n).owner = s.owner := rfl
@[simp] theorem State.clearLine_lineOf (n : Nat) : (s.clearLine n).lineOf = s.lineOf := rfl
@[simp] theorem State.clearLine_pending (n : Nat) : (s.clearLine n).pending = Rising.erase n s.pending := rfl
@[simp] theorem State.clearLine_watch (n : Nat) : (s.clearLine n).watch = s.watch := rfl
@[simp] theorem State.clearLine_devices (n : Nat) : (s.clearLine n).devices = s.devices := rfl
@[simp] theorem State.clearLine_params (n : Nat) : (s.clearLine n).params = s.params := rfl
@[simp] theorem State.clearLine_phases (n : Nat) : (s.clearLine n).phases = s.phases := rfl
@[simp] theorem State.clearLine_replies (n : Nat) : (s.clearLine n).replies = s.replies := rfl
@[simp] theorem State.clearLine_portCalls (n : Nat) : (s.clearLine n).portCalls = s.portCalls := rfl
@[simp] theorem State.clearLine_busLog (n : Nat) : (s.clearLine n).busLog = s.busLog := rfl
@[simp] theorem State.clearLine_trace (n : Nat) : (s.clearLine n).trace = s.trace := rfl

@[simp] theorem State.raiseLine_regs (n : Nat) : (s.raiseLine n).regs = s.regs := by
  unfold State.raiseLine; split <;> rfl
@[simp] theorem State.raiseLine_sregs (n : Nat) : (s.raiseLine n).sregs = s.sregs := by
  unfold State.raiseLine; split <;> rfl
@[simp] theorem State.raiseLine_ip (n : Nat) : (s.raiseLine n).ip = s.ip := by
  unfold State.raiseLine; split <;> rfl
@[simp] theorem State.raiseLine_ipStart (n : Nat) : (s.raiseLine n).ipStart = s.ipStart := by
  unfold State.raiseLine; split <;> rfl
@[simp] theorem State.raiseLine_flags (n : Nat) : (s.raiseLine n).flags = s.flags := by
  unfold State.raiseLine; split <;> rfl
@[simp] theorem State.raiseLine_opsizePfx (n : Nat) : (s.raiseLine n).opsizePfx = s.opsizePfx := by
  unfold State.raiseLine; split <;> rfl
@[simp] theorem State.raiseLine_segPfx (n : Nat) : (s.raiseLine n).segPfx = s.segPfx := by
  unfold State.raiseLine; split <;> rfl
@[simp] theorem State.raiseLine_halted (n : Nat) : (s.raiseLine n).halted = s.halted := by
  unfold State.raiseLine; split <;> rfl
@[simp] theorem State.raiseLine_mem (n : Nat) : (s.raiseLine n).mem = s.mem := by
  unfold State.raiseLine; split <;> rfl
@[simp] theorem State.raiseLine_a20 (n : Nat) : (s.raiseLine n).a20 = s.a20 := by
  unfold State.raiseLine; split <;> rfl
@[simp] theorem State.raiseLine_owner (n : Nat) : (s.raiseLine n).owner = s.owner := by
  unfold State.raiseLine; split <;> rfl
@[simp] theorem State.raiseLine_lineOf (n : Nat) : (s.raiseLine n).lineOf = s.lineOf := by
  unfold State.raiseLine; split <;> rfl
@[simp] theorem State.raiseLine_watch (n : Nat) : (s.raiseLine n).watch = s.watch := by
  unfold State.raiseLine; split <;> rfl
@[simp] theorem State.raiseLine_devices (n : Nat) : (s.raiseLine n).devices = s.devices := by
  unfold State.raiseLine; split <;> rfl
@[simp] theorem State.raiseLine_params (n : Nat) : (s.raiseLine n).params = s.params := by
  unfold State.raiseLine; split <;> rfl
@[simp] theorem State.raiseLine_phases (n : Nat) : (s.raiseLine n).phases = s.phases := by
  unfold State.raiseLine; split <;> rfl
@[simp] theorem State.raiseLine_replies (n : Nat) : (s.raiseLine n).replies = s.replies := by
  unfold State.raiseLine; split <;> rfl
@[simp] theorem State.raiseLine_portCalls (n : Nat) : (s.raiseLine n).portCalls = s.portCalls := by
  unfold State.raiseLine; split <;> rfl
@[simp] theorem State.raiseLine_busLog (n : Nat) : (s.raiseLine n).busLog = s.busLog := by
  unfold State.raiseLine; split <;> rfl
@[simp] theorem State.raiseLine_trace (n : Nat) : (s.raiseLine n).trace = s.trace := by
  unfold State.raiseLine; split <;> rfl

@[simp] theorem Params.default_policy : Params.default.policy = .halt := rfl
@[simp] theorem Params.default_maxInsnLen : Params.default.maxInsnLen = 15 := rfl

end

end Sys2Proof.Machine
end

