-- ==== Sys2Proof/Laws/Memory.lean ====
section
/-! SUPPORT. Keyed lists and memory: what reads after writes give, the canonical form, and one lemma for each of
`SegRead` and `SegWrite` that says all they can do. -/

namespace Sys2Proof.Machine

/-! ### Keyed lists -/

section
variable {α : Type}

theorem Assoc.find_erase (k j : Nat) (l : List (Nat × α)) :
    Assoc.find j (Assoc.erase k l) = if j = k then none else Assoc.find j l := by
  induction l with
  | nil => simp [Assoc.erase, Assoc.find]
  | cons c l ih =>
    obtain ⟨n, v⟩ := c
    by_cases h : n = k
    · subst h
      have : Assoc.erase n ((n, v) :: l) = Assoc.erase n l := by simp [Assoc.erase]
      rw [this, ih]
      by_cases hj : j = n
      · simp [hj]
      · simp [hj, Assoc.find, Ne.symm hj]
    · have : Assoc.erase k ((n, v) :: l) = (n, v) :: Assoc.erase k l := by simp [Assoc.erase, h]
      rw [this]
      by_cases hj : n = j
      · subst hj; simp [Assoc.find, h]
      · simp [Assoc.find, hj, ih]

theorem Assoc.find_insert (k j : Nat) (v : α) (l : List (Nat × α)) (h : ∀ c ∈ l, c.1 ≠ k) :
    Assoc.find j (Assoc.insert k v l) = if j = k then some v else Assoc.find j l := by
  induction l with
  | nil => by_cases hj : k = j <;> simp [Assoc.insert, Assoc.find, hj, eq_comm]
  | cons c l ih =>
    obtain ⟨n, x⟩ := c
    have hn : n ≠ k := h (n, x) (by simp)
    have ih := ih fun c hc => h c (by simp [hc])
    unfold Assoc.insert
    by_cases hk : k < n
    · by_cases hj : k = j
      · subst hj; simp [hk, Assoc.find]
      · simp [hk, Assoc.find, hj, Ne.symm hj]
    · simp only [hk, if_false, Assoc.find, ih]
      by_cases hj : n = j
      · subst hj; simp [hn]
      · simp [hj]

theorem Assoc.mem_erase (k : Nat) (l : List (Nat × α)) (c : Nat × α) :
    c ∈ Assoc.erase k l ↔ c ∈ l ∧ c.1 ≠ k := by
  simp [Assoc.erase]

theorem Assoc.mem_insert (k : Nat) (v : α) (l : List (Nat × α)) (c : Nat × α) :
    c ∈ Assoc.insert k v l ↔ c = (k, v) ∨ c ∈ l := by
  induction l with
  | nil => simp [Assoc.insert]
  | cons d l ih =>
    unfold Assoc.insert
    split
    · simp
    · simp only [List.mem_cons, ih]; tauto

theorem Assoc.mem_put (k : Nat) (v : α) (l : List (Nat × α)) (c : Nat × α) :
    c ∈ Assoc.put k v l ↔ c = (k, v) ∨ c ∈ l ∧ c.1 ≠ k := by
  simp [Assoc.put, Assoc.mem_insert, Assoc.mem_erase]

/-- What a keyed list gives after a key was set. -/
theorem Assoc.find_put (k j : Nat) (v : α) (l : List (Nat × α)) :
    Assoc.find j (Assoc.put k v l) = if j = k then some v else Assoc.find j l := by
  rw [Assoc.put, Assoc.find_insert _ _ _ _ (by simp [Assoc.mem_erase]), Assoc.find_erase]
  split <;> rfl

theorem Assoc.sorted_erase (k : Nat) {l : List (Nat × α)} (h : Assoc.Sorted l) : Assoc.Sorted (Assoc.erase k l) :=
  h.filter _

theorem Assoc.sorted_insert (k : Nat) (v : α) {l : List (Nat × α)} (h : Assoc.Sorted l) (hk : ∀ c ∈ l, c.1 ≠ k) :
    Assoc.Sorted (Assoc.insert k v l) := by
  induction l with
  | nil => simp [Assoc.insert]
  | cons c l ih =>
    rw [Assoc.Sorted, List.pairwise_cons] at h
    have hc := hk c (by simp)
    unfold Assoc.insert
    split
    · rename_i hlt
      refine List.pairwise_cons.2 ⟨?_, List.pairwise_cons.2 h⟩
      intro d hd
      rcases List.mem_cons.1 hd with rfl | hd
      · exact hlt
      · exact Nat.lt_trans hlt (h.1 d hd)
    · rename_i hlt
      refine List.pairwise_cons.2 ⟨?_, ih h.2 fun c hc => hk c (by simp [hc])⟩
      intro d hd
      rcases (Assoc.mem_insert _ _ _ _).1 hd with rfl | hd
      · dsimp only at *; omega
      · exact h.1 d hd

theorem Assoc.sorted_put (k : Nat) (v : α) {l : List (Nat × α)} (h : Assoc.Sorted l) :
    Assoc.Sorted (Assoc.put k v l) :=
  Assoc.sorted_insert k v (Assoc.sorted_erase k h) (by simp [Assoc.mem_erase])

/-- In a sorted keyed list the entry at a key is what the key finds. -/
theorem Assoc.find_eq_some {l : List (Nat × α)} (h : Assoc.Sorted l) (k : Nat) (v : α) :
    Assoc.find k l = some v ↔ (k, v) ∈ l := by
  induction l with
  | nil => simp [Assoc.find]
  | cons c l ih =>
    obtain ⟨n, x⟩ := c
    rw [Assoc.Sorted, List.pairwise_cons] at h
    by_cases hn : n = k
    · subst hn
      simp only [Assoc.find, if_true, Option.some.injEq, List.mem_cons, Prod.mk.injEq, true_and]
      constructor
      · rintro rfl; simp
      · rintro (rfl | hm)
        · rfl
        · exact absurd (h.1 _ hm) (by simp)
    · simp [Assoc.find, hn, ih h.2, Ne.symm hn]

end

/-! ### Rising lists of numbers -/

theorem Rising.mem_insert (n m : Nat) (l : List Nat) : m ∈ Rising.insert n l ↔ m = n ∨ m ∈ l := by
  induction l with
  | nil => simp [Rising.insert]
  | cons k l ih =>
    unfold Rising.insert
    split
    · simp
    · simp only [List.mem_cons, ih]; tauto

/-- What a rising list holds after a number was put in. -/
theorem Rising.mem_put (n m : Nat) (l : List Nat) : m ∈ Rising.put n l ↔ m = n ∨ m ∈ l := by
  simp only [Rising.put, Rising.mem_insert, List.mem_filter, bne_iff_ne]
  tauto

/-- What a list holds after a number was taken out. -/
theorem Rising.mem_erase (n m : Nat) (l : List Nat) : m ∈ Rising.erase n l ↔ m ∈ l ∧ m ≠ n := by
  simp [Rising.erase]

theorem Rising.pairwise_erase (n : Nat) {l : List Nat} (h : l.Pairwise (· < ·)) :
    (Rising.erase n l).Pairwise (· < ·) := h.filter _

theorem Rising.pairwise_insert (n : Nat) {l : List Nat} (h : l.Pairwise (· < ·)) (hn : n ∉ l) :
    (Rising.insert n l).Pairwise (· < ·) := by
  induction l with
  | nil => simp [Rising.insert]
  | cons k l ih =>
    rw [List.pairwise_cons] at h
    simp only [List.mem_cons, not_or] at hn
    unfold Rising.insert
    split
    · rename_i hlt
      refine List.pairwise_cons.2 ⟨?_, List.pairwise_cons.2 h⟩
      intro m hm
      rcases List.mem_cons.1 hm with rfl | hm
      · exact hlt
      · exact Nat.lt_trans hlt (h.1 m hm)
    · refine List.pairwise_cons.2 ⟨?_, ih h.2 hn.2⟩
      intro m hm
      rcases (Rising.mem_insert _ _ _).1 hm with rfl | hm
      · omega
      · exact h.1 m hm

theorem Rising.pairwise_put (n : Nat) {l : List Nat} (h : l.Pairwise (· < ·)) :
    (Rising.put n l).Pairwise (· < ·) :=
  Rising.pairwise_insert n (h.filter _) (by simp)

/-! ### The memory array -/

/-- A byte reads as what was last written to it, every other byte as before. -/
theorem Memory.read_write (m : Memory) (a c : Nat) (b : Byte) :
    (m.write a b).read c = if c = a then b else m.read c := by
  unfold Memory.write Memory.read
  split
  · rename_i h
    rw [Assoc.find_erase]; split
    · simp [h]
    · rfl
  · rw [Assoc.find_put]; split <;> rfl

/-- Memory writes keep the canonical form. -/
theorem Memory.wf_write {m : Memory} (h : m.wf) (a : Nat) (b : Byte) : (m.write a b).wf := by
  unfold Memory.write
  split
  · exact ⟨Assoc.sorted_erase a h.1, fun c hc => h.2 c ((Assoc.mem_erase _ _ _).1 hc).1⟩
  · rename_i hb
    refine ⟨Assoc.sorted_put a b h.1, fun c hc => ?_⟩
    rcases (Assoc.mem_put _ _ _ _).1 hc with rfl | hc
    · exact hb
    · exact h.2 c hc.1

/-- A write lists no address but its own. -/
theorem Memory.mem_write {m : Memory} {a : Nat} {b : Byte} {c : Host.Cell} (h : c ∈ m.write a b) :
    c.1 = a ∨ c ∈ m := by
  unfold Memory.write at h
  split at h
  · exact .inr ((Assoc.mem_erase _ _ _).1 h).1
  · rcases (Assoc.mem_put _ _ _ _).1 h with rfl | h
    · exact .inl rfl
    · exact .inr h.1

theorem Memory.wf_writeBytes {m : Memory} (h : m.wf) (a : Nat) (bs : List Byte) : (m.writeBytes a bs).wf := by
  induction bs generalizing m a with
  | nil => exact h
  | cons b bs ih => exact ih (Memory.wf_write h a b) (a + 1)

/-- A bulk write lists no address but its own. -/
theorem Memory.mem_writeBytes {m : Memory} {a : Nat} {bs : List Byte} {c : Host.Cell}
    (h : c ∈ m.writeBytes a bs) : (a ≤ c.1 ∧ c.1 < a + bs.length) ∨ c ∈ m := by
  induction bs generalizing m a with
  | nil => exact .inr h
  | cons b bs ih =>
    rcases ih h with h | h
    · left; simp only [List.length_cons]; omega
    · rcases Memory.mem_write h with h | h
      · left; simp only [List.length_cons]; omega
      · exact .inr h

/-- What a bulk write leaves: the bytes at consecutive addresses, every other byte as it was (R79). -/
theorem Memory.read_writeBytes (m : Memory) (a c : Nat) (bs : List Byte) :
    (m.writeBytes a bs).read c = if h : a ≤ c ∧ c - a < bs.length then bs[c - a]'h.2 else m.read c := by
  induction bs generalizing m a with
  | nil => simp [Memory.writeBytes]
  | cons b bs ih =>
    rw [Memory.writeBytes, ih, Memory.read_write]
    by_cases h1 : c = a
    · subst h1; simp
    · by_cases h2 : a + 1 ≤ c ∧ c - (a + 1) < bs.length
      · have h3 : a ≤ c ∧ c - a < (b :: bs).length := by simp only [List.length_cons]; omega
        rw [dif_pos h2, dif_pos h3]
        have : c - a = (c - (a + 1)) + 1 := by omega
        simp [this]
      · have h3 : ¬ (a ≤ c ∧ c - a < (b :: bs).length) := by simp only [List.length_cons]; omega
        rw [dif_neg h2, dif_neg h3, if_neg h1]

/-- Two canonical memories that read alike are equal. -/
theorem Memory.eq_of_read {m n : Memory} (hm : m.wf) (hn : n.wf) (h : ∀ a, m.read a = n.read a) : m = n := by
  have hf : ∀ a, Assoc.find a m = Assoc.find a n := by
    intro a
    have key : ∀ {p : Memory}, p.wf → Assoc.find a p ≠ some Memory.unlisted := by
      intro p hp hs
      exact hp.2 _ ((Assoc.find_eq_some hp.1 a _).1 hs) rfl
    have := h a
    unfold Memory.read at this
    cases hx : Assoc.find a m <;> cases hy : Assoc.find a n <;> simp only [hx, hy, Option.getD] at this
    · rfl
    · exact absurd (this ▸ hy) (key hn)
    · exact absurd (this ▸ hx) (key hm)
    · rw [this]
  have hmem : ∀ c, c ∈ m ↔ c ∈ n := by
    rintro ⟨a, b⟩
    rw [← Assoc.find_eq_some hm.1, ← Assoc.find_eq_some hn.1, hf]
  have nd : ∀ {p : Memory}, p.wf → p.Nodup := fun hp => hp.1.imp fun hlt he => by simp [he] at hlt
  refine List.Perm.eq_of_pairwise (le := fun c d => c.1 < d.1) ?_ hm.1 hn.1 ((List.perm_ext_iff_of_nodup (nd hm) (nd hn)).2 hmem)
  intro a b _ _ h1 h2; omega

end Sys2Proof.Machine
end

