-- ==== Sys2Proof/Laws/Access.lean ====
section
/-! SUPPORT. Addresses, trace records, and everything `SegRead`, `SegWrite`, `MemRead` and `MemWrite` can do. -/

namespace Sys2Proof.Machine

/-! ### Sequencing -/

@[simp] theorem Eff.ok_bind {α β : Type} (a : α) (l : List TraceRecord) (f : α → Eff β) :
    (Eff.ok a l).bind f = (f a).after l := rfl

@[simp] theorem Eff.error_bind {α β : Type} (r : Refusal) (f : α → Eff β) : (Eff.error r).bind f = .error r := rfl

@[simp] theorem Eff.after_ok {α : Type} (l l' : List TraceRecord) (a : α) :
    (Eff.ok a l').after l = .ok a (l ++ l') := rfl

@[simp] theorem Eff.after_error {α : Type} (l : List TraceRecord) (r : Refusal) :
    (Eff.error r : Eff α).after l = .error r := rfl

@[simp] theorem Eff.after_nil {α : Type} (x : Eff α) : x.after [] = x := by cases x <;> rfl

@[simp] theorem Eff.after_after {α : Type} (l l' : List TraceRecord) (x : Eff α) :
    (x.after l').after l = x.after (l ++ l') := by
  cases x <;> simp

@[simp] theorem ofEff_ok (s : State) (l : List TraceRecord) : ofEff (.ok s l) = .next (s.emit l) := rfl

@[simp] theorem State.emit_nil (s : State) : s.emit [] = s := by simp [State.emit]

@[simp] theorem ofEff_error (r : Refusal) : ofEff (.error r) = .refused r := rfl

/-! ### Addresses (R61, R62) -/

@[simp] theorem linear_toNat (sel off : Half) : (linear sel off).toNat = sel.toNat * 16 + off.toNat := by
  have := sel.isLt; have := off.isLt
  simp only [linear, BitVec.toNat_add, BitVec.toNat_shiftLeft, BitVec.toNat_setWidth, Nat.shiftLeft_eq]
  omega

/-- The physical address of a 21-bit address, as numbers (R62). -/
theorem State.phys_eq (s : State) (a : Linear) : s.phys a = if s.a20 then a.toNat else a.toNat % 2 ^ 20 := by
  unfold State.phys State.gate
  split
  · rfl
  · have : a.toNat % 2 ^ 20 < 2 ^ 21 := by omega
    simp only [BitVec.toNat_setWidth, BitVec.extractLsb'_toNat, Nat.shiftRight_zero]
    omega

theorem State.byteAddr_zero (s : State) (sel off : Half) : s.byteAddr sel off 0 = s.phys (linear sel off) := by
  simp [State.byteAddr]

theorem State.byteAddr_succ (s : State) (sel off : Half) (k : Nat) :
    s.byteAddr sel off (k + 1) = s.byteAddr sel (off + 1) k := by
  unfold State.byteAddr
  congr 2
  apply BitVec.eq_of_toNat_eq
  simp only [BitVec.toNat_add, BitVec.toNat_ofNat, show BitVec.toNat (1 : Half) = 1 from rfl]
  omega

/-- An offset further up inside an operand. -/
theorem State.byteAddr_add (s : State) (sel off : Half) (j k : Nat) :
    s.byteAddr sel (off + BitVec.ofNat 16 j) k = s.byteAddr sel off (j + k) := by
  unfold State.byteAddr
  congr 2
  apply BitVec.eq_of_toNat_eq
  simp only [BitVec.toNat_add, BitVec.toNat_ofNat]
  omega

/-- The bytes of one operand lie at different addresses, also where the offset wraps. -/
theorem State.byteAddr_inj (s : State) (sel off : Half) {j k : Nat} (hj : j < 2 ^ 16) (hk : k < 2 ^ 16)
    (h : s.byteAddr sel off j = s.byteAddr sel off k) : j = k := by
  have := sel.isLt; have := off.isLt
  simp only [State.byteAddr, State.phys_eq, linear_toNat, BitVec.toNat_add, BitVec.toNat_ofNat] at h
  split at h <;> omega

/-- With `RAM_SIZE >= 0x10FFF0` every byte the CPU can address is backed (R63). -/
theorem State.fullRam.byteAddr_lt {s : State} (h : s.fullRam) (sel off : Half) (k : Nat) :
    s.byteAddr sel off k < s.params.ramSize := by
  have := sel.isLt
  have := (off + BitVec.ofNat 16 k).isLt
  simp only [State.byteAddr, State.phys_eq, linear_toNat]
  unfold State.fullRam at h
  split <;> omega

theorem State.fullRam.segBacked {s : State} (h : s.fullRam) (sel off : Half) (n : Nat) : s.segBacked sel off n :=
  fun k _ => h.byteAddr_lt sel off k

theorem State.fullRam.operandBacked {s : State} (h : s.fullRam) (w : Width) (e : EOperand) :
    s.operandBacked w e = true := by
  cases e
  · rfl
  · exact decide_eq_true (h.segBacked _ _ _)

/-! ### Trace records (R570) -/

theorem State.recordsOf_nil (s : State) (k : AccessKind) : s.recordsOf k [] = [] := rfl

theorem State.recordsOf_append (s : State) (k : AccessKind) (l l' : List Nat) :
    s.recordsOf k (l ++ l') = s.recordsOf k l ++ s.recordsOf k l' := by
  simp [State.recordsOf]

theorem State.flag_eq (s : State) (k : AccessKind) (a : Linear) : s.flag k a = s.recordsOf k [s.phys a] := by
  unfold State.flag State.watchFlags State.recordsOf
  cases h : s.watch == some (s.phys a) <;> simp [h]

/-- Every record is of the watch address. -/
theorem State.recordsOf_flagged (s : State) (k : AccessKind) (l : List Nat) : s.Flagged (s.recordsOf k l) := by
  intro r hr
  simp only [State.recordsOf, List.mem_map, List.mem_filter, beq_iff_eq] at hr
  obtain ⟨a, ⟨-, ha⟩, rfl⟩ := hr
  exact ha

theorem State.segRecords_flagged (s : State) (k : AccessKind) (sel off : Half) (n : Nat) :
    s.Flagged (s.segRecords k sel off n) := s.recordsOf_flagged k _

theorem State.absRecords_flagged (s : State) (k : AccessKind) (a : Linear) (n : Nat) :
    s.Flagged (s.absRecords k a n) := s.recordsOf_flagged k _

theorem State.Flagged.append {s : State} {l l' : List TraceRecord} (h : s.Flagged l) (h' : s.Flagged l') :
    s.Flagged (l ++ l') := fun r hr => (List.mem_append.1 hr).elim (h r) (h' r)

theorem State.flagged_nil (s : State) : s.Flagged [] := fun _ hr => by cases hr

/-- The records of an access, first byte first. -/
theorem State.segRecords_succ (s : State) (k : AccessKind) (sel off : Half) (n : Nat) :
    s.segRecords k sel off (n + 1) = s.flag k (linear sel off) ++ s.segRecords k sel (off + 1) n := by
  rw [State.flag_eq, State.segRecords, State.segRecords, ← State.recordsOf_append, List.range_succ_eq_map]
  simp only [List.map_cons, List.map_map, State.byteAddr_zero, List.singleton_append]
  congr 2
  exact List.map_congr_left fun j _ => s.byteAddr_succ sel off j

/-- The records of two accesses at consecutive offsets are those of one. -/
theorem State.segRecords_append (s : State) (k : AccessKind) (sel off : Half) (j n : Nat) :
    s.segRecords k sel off j ++ s.segRecords k sel (off + BitVec.ofNat 16 j) n = s.segRecords k sel off (j + n) := by
  unfold State.segRecords
  rw [← State.recordsOf_append, List.range_add, List.map_append, List.map_map]
  congr 2
  exact List.map_congr_left fun i _ => s.byteAddr_add sel off j i

theorem State.absAddr_zero (s : State) (a : Linear) : s.absAddr a 0 = s.phys a := by simp [State.absAddr]

theorem State.absAddr_succ (s : State) (a : Linear) (k : Nat) : s.absAddr a (k + 1) = s.absAddr (a + 1) k := by
  unfold State.absAddr
  congr 1
  apply BitVec.eq_of_toNat_eq
  simp only [BitVec.toNat_add, BitVec.toNat_ofNat, show BitVec.toNat (1 : Linear) = 1 from rfl]
  omega

/-- The bytes of one access at an absolute address lie at different physical addresses. -/
theorem State.absAddr_inj (s : State) (a : Linear) {j k : Nat} (hj : j < 2 ^ 20) (hk : k < 2 ^ 20)
    (h : s.absAddr a j = s.absAddr a k) : j = k := by
  have := a.isLt
  simp only [State.absAddr, State.phys_eq, BitVec.toNat_add, BitVec.toNat_ofNat] at h
  split at h <;> omega

theorem State.absRecords_succ (s : State) (k : AccessKind) (a : Linear) (n : Nat) :
    s.absRecords k a (n + 1) = s.flag k a ++ s.absRecords k (a + 1) n := by
  rw [State.flag_eq, State.absRecords, State.absRecords, ← State.recordsOf_append, List.range_succ_eq_map]
  simp only [List.map_cons, List.map_map, State.absAddr_zero, List.singleton_append]
  congr 2
  exact List.map_congr_left fun j _ => s.absAddr_succ a j

theorem State.segRecords_one (s : State) (k : AccessKind) (sel off : Half) :
    s.segRecords k sel off 1 = s.flag k (linear sel off) := by
  rw [State.segRecords_succ]; simp [State.segRecords, State.recordsOf]

theorem byteOf_shiftRight {b : Nat} (v : BitVec b) (k : Nat) : byteOf (v >>> 8) k = byteOf v (k + 1) := by
  apply BitVec.eq_of_getLsbD_eq
  intro i hi
  simp [byteOf, show 8 + (8 * k + i) = 8 * (k + 1) + i by omega]

theorem byteOf_zero {b : Nat} (v : BitVec b) : v.setWidth 8 = byteOf v 0 := by
  apply BitVec.eq_of_getLsbD_eq
  intro i hi
  simp [byteOf, hi]

/-! ### Single bytes -/

theorem State.readByte_eq (s : State) (a : Linear) :
    s.readByte a = if s.phys a < s.params.ramSize then .ok (s.mem.read (s.phys a)) (s.flag .read a)
      else .error .memoryRange := by
  simp [State.readByte, State.backed, State.byteAt]

theorem State.writeByte_eq (s : State) (a : Linear) (b : Byte) :
    s.writeByte a b =
      if s.phys a < s.params.ramSize then .ok { s with mem := s.mem.write (s.phys a) b } (s.flag .write a)
      else .error .memoryRange := by
  simp [State.writeByte, State.backed]

/-- `MemRead` of one byte (R64). -/
theorem State.memRead_one (s : State) (a : Linear) :
    s.memRead a 1 =
      if s.phys a < s.params.ramSize then .ok ((s.mem.read (s.phys a)).setWidth 32) (s.flag .read a)
      else .error .memoryRange := by
  simp only [State.memRead, State.readByte_eq]
  split <;> simp

/-- `MemWrite` of one byte (R65). -/
theorem State.memWrite_one (s : State) (a : Linear) (v : Word) :
    s.memWrite a 1 v =
      if s.phys a < s.params.ramSize then .ok { s with mem := s.mem.write (s.phys a) (v.setWidth 8) } (s.flag .write a)
      else .error .memoryRange := by
  simp only [State.memWrite, State.writeByte_eq]
  split <;> simp

/-! ### `SegWrite` (R67) -/

/-- A memory that differs from another in listed addresses below a bound only, and is canonical if it is. -/
structure Memory.Grown (m : Memory) (bound : Nat) (m' : Memory) : Prop where
  wf : m.wf → m'.wf
  mem : ∀ c ∈ m', c ∈ m ∨ c.1 < bound

theorem Memory.Grown.refl (m : Memory) (bound : Nat) : m.Grown bound m := ⟨id, fun _ h => .inl h⟩

theorem Memory.Grown.trans {m m' m'' : Memory} {b : Nat} (h : m.Grown b m') (h' : m'.Grown b m'') : m.Grown b m'' :=
  ⟨h'.wf ∘ h.wf, fun c hc => (h'.mem c hc).elim (h.mem c) .inr⟩

theorem Memory.Grown.write (m : Memory) {a bound : Nat} (ha : a < bound) (b : Byte) : m.Grown bound (m.write a b) :=
  ⟨fun h => Memory.wf_write h a b, fun _ hc => (Memory.mem_write hc).symm.imp_right fun h => by omega⟩

/-- `SegWrite` on backed bytes: the next state differs in memory only, and memory as `Stores` says (R67). -/
theorem State.segWrite_ok (s : State) (sel off : Half) (n : Nat) (v : Word) (hn : n ≤ 2 ^ 16)
    (h : s.segBacked sel off n) :
    ∃ m, s.segWrite sel off n v = .ok { s with mem := m } (s.segRecords .write sel off n) ∧ s.Stores sel off n v m ∧
      s.mem.Grown s.params.ramSize m := by
  induction n generalizing s off v with
  | zero => exact ⟨s.mem, rfl, ⟨by simp, fun _ _ => rfl⟩, .refl _ _⟩
  | succ n ih =>
    have h0 : s.phys (linear sel off) < s.params.ramSize := by
      have := h 0 (by omega); rwa [State.byteAddr_zero] at this
    obtain ⟨m, hm, hs, hg⟩ := ih { s with mem := s.mem.write (s.phys (linear sel off)) (v.setWidth 8) } (off + 1)
      (v >>> 8) (by omega) (fun k hk => by
        have := h (k + 1) (by omega); rwa [State.byteAddr_succ] at this)
    refine ⟨m, ?_, ⟨fun k hk => ?_, fun a ha => ?_⟩, ?_⟩
    · simp only [State.segWrite, State.memWrite_one, if_pos h0, Eff.ok_bind, State.segRecords_succ]
      rw [hm]
      rfl
    · cases k with
      | zero =>
        rw [hs.2 _ fun k hk he => ?_, Memory.read_write, if_pos (s.byteAddr_zero sel off), byteOf_zero]
        change s.byteAddr sel off 0 = s.byteAddr sel (off + 1) k at he
        rw [← State.byteAddr_succ] at he
        have := s.byteAddr_inj sel off (by omega) (by omega) he
        omega
      | succ k =>
        rw [State.byteAddr_succ]
        have := hs.1 k (by omega)
        rw [byteOf_shiftRight] at this
        exact this
    · rw [hs.2 a fun k hk => ?_, Memory.read_write, if_neg]
      · have := ha 0 (by omega); rwa [State.byteAddr_zero] at this
      · have := ha (k + 1) (by omega); rwa [State.byteAddr_succ] at this
    · exact (Memory.Grown.write _ h0 _).trans hg

/-- `SegWrite` is refused when one of its bytes is not backed (R63). -/
theorem State.segWrite_error (s : State) (sel off : Half) (n : Nat) (v : Word) (h : ¬ s.segBacked sel off n) :
    s.segWrite sel off n v = .error .memoryRange := by
  induction n generalizing s off v with
  | zero => exact absurd (fun k hk => absurd hk (by omega)) h
  | succ n ih =>
    simp only [State.segWrite, State.memWrite_one]
    split
    · rename_i h0
      rw [Eff.ok_bind, ih { s with mem := _ } (off + 1) (v >>> 8) fun h' => h fun k hk => ?_]
      · rfl
      cases k with
      | zero => rw [State.byteAddr_zero]; exact h0
      | succ k => rw [State.byteAddr_succ]; exact h' k (by omega)
    · rfl

/-- Everything `SegWrite` can do. -/
theorem State.segWrite_cases (s : State) (sel off : Half) (n : Nat) (v : Word) (hn : n ≤ 2 ^ 16) :
    (s.segBacked sel off n ∧ ∃ m, s.segWrite sel off n v = .ok { s with mem := m } (s.segRecords .write sel off n) ∧
      s.Stores sel off n v m ∧ s.mem.Grown s.params.ramSize m) ∨
    ¬ s.segBacked sel off n ∧ s.segWrite sel off n v = .error .memoryRange :=
  (Classical.em _).imp (fun h => ⟨h, s.segWrite_ok sel off n v hn h⟩) fun h => ⟨h, s.segWrite_error sel off n v h⟩

/-! ### `SegRead` (R66) -/

/-- The little-endian value of the `n` bytes at `sel:off` (R66). -/
def State.segValue (s : State) (sel off : Half) : Nat → Word
  | 0 => 0
  | n + 1 => (s.segValue sel (off + 1) n <<< 8) ||| (s.mem.read (s.phys (linear sel off))).setWidth 32

theorem State.segRead_ok (s : State) (sel off : Half) (n : Nat) (h : s.segBacked sel off n) :
    s.segRead sel off n = .ok (s.segValue sel off n) (s.segRecords .read sel off n) := by
  induction n generalizing off with
  | zero => rfl
  | succ n ih =>
    have h0 : s.phys (linear sel off) < s.params.ramSize := by
      have := h 0 (by omega); rwa [State.byteAddr_zero] at this
    have := ih (off + 1) fun k hk => by have := h (k + 1) (by omega); rwa [State.byteAddr_succ] at this
    simp only [State.segRead, State.memRead_one, if_pos h0, this, Eff.ok_bind, Eff.after_ok, List.append_nil,
      State.segRecords_succ]
    rfl

/-- `SegRead` is refused when one of its bytes is not backed (R63). -/
theorem State.segRead_error (s : State) (sel off : Half) (n : Nat) (h : ¬ s.segBacked sel off n) :
    s.segRead sel off n = .error .memoryRange := by
  induction n generalizing off with
  | zero => exact absurd (fun k hk => absurd hk (by omega)) h
  | succ n ih =>
    simp only [State.segRead, State.memRead_one]
    split
    · rename_i h0
      rw [Eff.ok_bind, ih (off + 1) fun h' => h fun k hk => ?_]
      · rfl
      · cases k with
        | zero => rw [State.byteAddr_zero]; exact h0
        | succ k => rw [State.byteAddr_succ]; exact h' k (by omega)
    · rfl

/-- Everything `SegRead` can do. -/
theorem State.segRead_cases (s : State) (sel off : Half) (n : Nat) :
    s.segBacked sel off n ∧ s.segRead sel off n = .ok (s.segValue sel off n) (s.segRecords .read sel off n) ∨
    ¬ s.segBacked sel off n ∧ s.segRead sel off n = .error .memoryRange :=
  (Classical.em _).imp (fun h => ⟨h, s.segRead_ok sel off n h⟩) fun h => ⟨h, s.segRead_error sel off n h⟩

/-- The bits of the value read (R66, R68). -/
theorem State.segValue_getLsbD (s : State) (sel off : Half) (n k i : Nat) (hn : n ≤ 4) (hk : k < n) (hi : i < 8) :
    (s.segValue sel off n).getLsbD (8 * k + i) = (s.mem.read (s.byteAddr sel off k)).getLsbD i := by
  induction n generalizing off k with
  | zero => omega
  | succ n ih =>
    simp only [State.segValue, BitVec.getLsbD_or, BitVec.getLsbD_shiftLeft, BitVec.getLsbD_setWidth]
    cases k with
    | zero => rw [State.byteAddr_zero]; simp [hi]; intro; omega
    | succ k =>
      have h1 : 8 * (k + 1) + i - 8 = 8 * k + i := by omega
      have h2 : ¬ (8 * (k + 1) + i < 8) := by omega
      have h3 : 8 * (k + 1) + i < 32 := by omega
      rw [State.byteAddr_succ, h1, ih (off + 1) k (by omega) (by omega)]
      simp only [h2, h3, decide_false, decide_true, Bool.not_false, Bool.true_and, Bool.or_eq_left_iff_imp]
      intro h
      have := BitVec.lt_of_getLsbD h
      omega

theorem State.segValue_getLsbD_high (s : State) (sel off : Half) (n i : Nat) (hi : 8 * n ≤ i) :
    (s.segValue sel off n).getLsbD i = false := by
  induction n generalizing off i with
  | zero => simp [State.segValue]
  | succ n ih =>
    simp only [State.segValue, BitVec.getLsbD_or, BitVec.getLsbD_shiftLeft, BitVec.getLsbD_setWidth]
    rw [ih (off + 1) (i - 8) (by omega), BitVec.getLsbD_of_ge _ i (by omega)]
    simp

/-- The value read at the width of an operand is the one memory holds (R66, R68). -/
theorem State.segValue_eq_of_Holds (s : State) (sel off : Half) (w : Width) (v : BitVec w.bits)
    (h : s.Holds sel off w.bytes v) : (s.segValue sel off w.bytes).setWidth w.bits = v := by
  apply BitVec.eq_of_getLsbD_eq
  intro i hi
  have hw : w.bits = 8 * w.bytes := by cases w <;> rfl
  have hb : w.bytes ≤ 4 := by cases w <;> decide
  have hk : i / 8 < w.bytes := by omega
  have hdiv : 8 * (i / 8) + i % 8 = i := by omega
  have hv := s.segValue_getLsbD sel off w.bytes (i / 8) (i % 8) hb hk (by omega)
  rw [hdiv] at hv
  rw [BitVec.getLsbD_setWidth, hv, h _ hk]
  simp only [byteOf, BitVec.getLsbD_extractLsb', hdiv, hi, decide_true, Bool.true_and]
  simp only [show i % 8 < 8 by omega, decide_true, Bool.true_and]

/-- What memory holds at `sel:off` is the value read there. -/
theorem State.Holds_segValue (s : State) (sel off : Half) (w : Width) :
    s.Holds sel off w.bytes ((s.segValue sel off w.bytes).setWidth w.bits) := by
  intro k hk
  have hw : w.bits = 8 * w.bytes := by cases w <;> rfl
  have hb : w.bytes ≤ 4 := by cases w <;> decide
  apply BitVec.eq_of_getLsbD_eq
  intro i hi
  simp only [byteOf, BitVec.getLsbD_extractLsb', hi, decide_true, Bool.true_and, BitVec.getLsbD_setWidth]
  rw [s.segValue_getLsbD sel off w.bytes k i hb hk hi]
  simp only [show 8 * k + i < w.bits by omega, decide_true, Bool.true_and]

/-! ### Reads after stores -/

theorem State.Stores.holds {s : State} {sel off : Half} {n : Nat} {b : Nat} {v : BitVec b} {m : Memory}
    (h : s.Stores sel off n v m) : ({ s with mem := m } : State).Holds sel off n v := h.1

/-- Two stores at consecutive offsets are one store (R67, R68). -/
theorem State.Stores.append {s : State} {sel off : Half} {j n : Nat} {b c : Nat} {lo : BitVec b} {hi : BitVec c}
    {m m' : Memory} (hjn : j + n ≤ 2 ^ 16) (hb : b = 8 * j) (hhi : s.Stores sel (off + BitVec.ofNat 16 j) n hi m)
    (hlo : ({ s with mem := m } : State).Stores sel off j lo m') : s.Stores sel off (j + n) (hi ++ lo) m' := by
  subst hb
  refine ⟨fun k hk => ?_, fun a ha => ?_⟩
  · by_cases hkj : k < j
    · rw [show s.byteAddr sel off k = ({ s with mem := m } : State).byteAddr sel off k from rfl, hlo.1 k hkj]
      apply BitVec.eq_of_getLsbD_eq
      intro i hi'
      simp only [byteOf, BitVec.getLsbD_extractLsb', BitVec.getLsbD_append, show 8 * k + i < 8 * j by omega, if_true]
    · rw [hlo.2 _ fun i hi' he => ?_]
      · have := hhi.1 (k - j) (by omega)
        rw [State.byteAddr_add, show j + (k - j) = k by omega] at this
        rw [this]
        apply BitVec.eq_of_getLsbD_eq
        intro i hi'
        simp only [byteOf, BitVec.getLsbD_extractLsb', BitVec.getLsbD_append, show ¬ 8 * k + i < 8 * j by omega,
          if_false, show 8 * (k - j) + i = 8 * k + i - 8 * j by omega]
      · have := s.byteAddr_inj sel off (by omega) (by omega) he
        omega
  · rw [hlo.2 a fun k hk => ha k (by omega), hhi.2 a fun k hk => ?_]
    rw [State.byteAddr_add]; exact ha _ (by omega)

/-! ### `MemRead` and `MemWrite` (R64, R65) -/

/-- `MemWrite` on backed bytes (R65). -/
theorem State.memWrite_ok (s : State) (a : Linear) (n : Nat) (v : Word) (hn : n ≤ 2 ^ 20) (h : s.absBacked a n) :
    ∃ m, s.memWrite a n v = .ok { s with mem := m } (s.absRecords .write a n) ∧ s.AbsStores a n v m ∧
      s.mem.Grown s.params.ramSize m := by
  induction n generalizing s a v with
  | zero => exact ⟨s.mem, rfl, ⟨by simp, fun _ _ => rfl⟩, .refl _ _⟩
  | succ n ih =>
    have h0 : s.phys a < s.params.ramSize := by
      have := h 0 (by omega); rwa [State.absAddr_zero] at this
    obtain ⟨m, hm, hs, hg⟩ := ih { s with mem := s.mem.write (s.phys a) (v.setWidth 8) } (a + 1) (v >>> 8) (by omega)
      (fun k hk => by have := h (k + 1) (by omega); rwa [State.absAddr_succ] at this)
    refine ⟨m, ?_, ⟨fun k hk => ?_, fun c hc => ?_⟩, ?_⟩
    · simp only [State.memWrite, State.writeByte_eq, if_pos h0, Eff.ok_bind, State.absRecords_succ]
      rw [hm]
      rfl
    · cases k with
      | zero =>
        rw [hs.2 _ fun k hk he => ?_, Memory.read_write, if_pos (s.absAddr_zero a), byteOf_zero]
        change s.absAddr a 0 = s.absAddr (a + 1) k at he
        rw [← State.absAddr_succ] at he
        have := s.absAddr_inj a (by omega) (by omega) he
        omega
      | succ k =>
        rw [State.absAddr_succ]
        have := hs.1 k (by omega)
        rw [byteOf_shiftRight] at this
        exact this
    · rw [hs.2 c fun k hk => ?_, Memory.read_write, if_neg]
      · have := hc 0 (by omega); rwa [State.absAddr_zero] at this
      · have := hc (k + 1) (by omega); rwa [State.absAddr_succ] at this
    · exact (Memory.Grown.write _ h0 _).trans hg

/-- `MemWrite` is refused when one of its bytes is not backed (R63). -/
theorem State.memWrite_error (s : State) (a : Linear) (n : Nat) (v : Word) (h : ¬ s.absBacked a n) :
    s.memWrite a n v = .error .memoryRange := by
  induction n generalizing s a v with
  | zero => exact absurd (fun k hk => absurd hk (by omega)) h
  | succ n ih =>
    simp only [State.memWrite, State.writeByte_eq]
    split
    · rename_i h0
      rw [Eff.ok_bind, ih { s with mem := _ } (a + 1) (v >>> 8) fun h' => h fun k hk => ?_]
      · rfl
      cases k with
      | zero => rw [State.absAddr_zero]; exact h0
      | succ k => rw [State.absAddr_succ]; exact h' k (by omega)
    · rfl

/-- Everything `MemRead` of at most four bytes can do (R64). -/
theorem State.memRead_cases (s : State) (a : Linear) (n : Nat) (hn : n ≤ 4) :
    (s.absBacked a n ∧ ∃ v : Word, s.memRead a n = .ok v (s.absRecords .read a n) ∧ s.AbsHolds a n v ∧
      ∀ i, 8 * n ≤ i → v.getLsbD i = false) ∨
    ¬ s.absBacked a n ∧ s.memRead a n = .error .memoryRange := by
  induction n generalizing a with
  | zero => exact .inl ⟨fun _ hk => absurd hk (by omega), 0, rfl, fun _ hk => absurd hk (by omega), by simp⟩
  | succ n ih =>
    simp only [State.memRead, State.readByte_eq]
    by_cases h0 : s.phys a < s.params.ramSize
    · rw [if_pos h0, Eff.ok_bind]
      rcases ih (a + 1) (by omega) with ⟨hb, v, hv, hh, hz⟩ | ⟨hb, hv⟩
      · refine .inl ⟨fun k hk => ?_, _, by rw [hv, State.absRecords_succ]; simp; rfl, fun k hk => ?_, fun i hi => ?_⟩
        · cases k with
          | zero => rwa [State.absAddr_zero]
          | succ k => rw [State.absAddr_succ]; exact hb k (by omega)
        · apply BitVec.eq_of_getLsbD_eq
          intro i hi
          simp only [byteOf, BitVec.getLsbD_extractLsb', BitVec.getLsbD_or, BitVec.getLsbD_shiftLeft,
            BitVec.getLsbD_setWidth, hi, decide_true, Bool.true_and]
          cases k with
          | zero => rw [State.absAddr_zero]; simp [hi]; intro; omega
          | succ k =>
            rw [State.absAddr_succ, hh k (by omega)]
            simp only [byteOf, BitVec.getLsbD_extractLsb', hi, decide_true, Bool.true_and,
              show 8 * (k + 1) + i - 8 = 8 * k + i by omega, show ¬ 8 * (k + 1) + i < 8 by omega,
              show 8 * (k + 1) + i < 32 by omega, decide_false, Bool.not_false]
            rw [BitVec.getLsbD_of_ge (s.mem.read _) _ (by omega), Bool.or_false]
        · simp only [BitVec.getLsbD_or, BitVec.getLsbD_shiftLeft, BitVec.getLsbD_setWidth]
          rw [hz (i - 8) (by omega), BitVec.getLsbD_of_ge _ i (by omega)]
          simp
      · refine .inr ⟨fun h => hb fun k hk => ?_, by rw [hv]; rfl⟩
        have := h (k + 1) (by omega); rwa [State.absAddr_succ] at this
    · refine .inr ⟨fun h => h0 ?_, by rw [if_neg h0]; rfl⟩
      have := h 0 (by omega); rwa [State.absAddr_zero] at this

/-! ### `MemRead` of the vector table (R64, R521) -/

/-- A word below the gate's bit 20, as the vector table's are: the read is the two bytes at that address. -/
theorem State.memRead_two (s : State) (a : Linear) (ha : a.toNat + 1 < 2 ^ 20) :
    s.memRead a 2 =
      if a.toNat + 1 < s.params.ramSize then
        .ok ((s.mem.read (a.toNat + 1) ++ s.mem.read a.toNat).setWidth 32)
          (s.recordsOf .read [a.toNat, a.toNat + 1])
      else .error .memoryRange := by
  have h1 : (a + 1).toNat = a.toNat + 1 := by
    rw [BitVec.toNat_add]; simp; omega
  have p0 : s.phys a = a.toNat := by rw [State.phys_eq]; split <;> omega
  have p1 : s.phys (a + 1) = a.toNat + 1 := by rw [State.phys_eq, h1]; split <;> omega
  simp only [State.memRead, State.readByte_eq, p0, p1]
  by_cases h : a.toNat + 1 < s.params.ramSize
  · have : a.toNat < s.params.ramSize := by omega
    simp only [this, h, if_true, Eff.ok_bind, Eff.after_ok, State.flag_eq, p0, p1, List.append_nil,
      ← State.recordsOf_append, List.cons_append, List.nil_append, Eff.ok.injEq, and_true]
    apply BitVec.eq_of_getLsbD_eq
    intro i hi
    simp only [BitVec.getLsbD_or, BitVec.getLsbD_shiftLeft, BitVec.getLsbD_setWidth, BitVec.getLsbD_append, hi,
      decide_true, Bool.true_and]
    by_cases h8 : i < 8
    · simp [h8]
    · simp only [h8, if_false, decide_false, Bool.not_false, Bool.true_and]
      rw [BitVec.getLsbD_of_ge _ i (by omega)]
      simp
      intro h; have := BitVec.lt_of_getLsbD h; omega
  · rw [if_neg h, if_neg h]
    split <;> rfl

end Sys2Proof.Machine
end

