-- ==== Sys2Proof/Laws/Encoding.lean ====
section
/-! SUPPORT. The decoder on encoded operands and immediates, what it reads back, and that bytes after an instruction do
not change what is decoded (R101, R109, R110, R114). -/

namespace Sys2Proof

/-! ### Fields -/

@[simp] theorem RegNum.ofCode_code (r : RegNum) : RegNum.ofCode r.code = r := by cases r <;> rfl

@[simp] theorem Base.ofCode_code (b : Base) : Base.ofCode b.code = b := by cases b <;> rfl

theorem RegNum.code_ofCode (c : BitVec 3) : (RegNum.ofCode c).code = c := by revert c; decide

theorem Base.code_ofCode (c : BitVec 3) : (Base.ofCode c).code = c := by revert c; decide

/-- The three fields of a ModRM byte (R109). -/
theorem modrmByte_fields (m : Byte) :
    modrmByte (m.extractLsb' 6 2) (m.extractLsb' 3 3) (m.extractLsb' 0 3) = m := by revert m; decide

@[simp] theorem half_bytes (v : Half) : half (v.extractLsb' 0 8) (v.extractLsb' 8 8) = v := by
  unfold half
  apply BitVec.eq_of_getLsbD_eq
  intro i hi
  simp only [BitVec.getLsbD_append, BitVec.getLsbD_extractLsb']
  split
  · simp [*]
  · rw [show 8 + (i - 8) = i by omega]; simp; omega

@[simp] theorem word_bytes (v : Word) :
    word (v.extractLsb' 0 8) (v.extractLsb' 8 8) (v.extractLsb' 16 8) (v.extractLsb' 24 8) = v := by
  unfold word
  apply BitVec.eq_of_getLsbD_eq
  intro i hi
  simp only [BitVec.getLsbD_append, BitVec.getLsbD_extractLsb']
  split
  · simp [*]
  · split
    · rw [show 8 + (i - 8) = i by omega]; simp [*]
    · split
      · rw [show 16 + (i - 8 - 8) = i by omega]; simp [*]
      · rw [show 24 + (i - 8 - 8 - 8) = i by omega]; simp; omega

theorem halfBytes_half (a b : Byte) : halfBytes (half a b) = [a, b] := by
  unfold halfBytes half
  simp only [List.cons.injEq, and_true]
  refine ⟨?_, ?_⟩ <;> apply BitVec.eq_of_getLsbD_eq <;> intro i hi <;>
    simp only [BitVec.getLsbD_extractLsb', BitVec.getLsbD_append, hi, decide_true, Bool.true_and]
  · rw [if_pos (by omega), Nat.zero_add]
  · rw [if_neg (by omega)]; congr 1; omega

theorem wordBytes_word (a b c d : Byte) : wordBytes (word a b c d) = [a, b, c, d] := by
  unfold wordBytes word
  simp only [List.cons.injEq, and_true]
  refine ⟨?_, ?_, ?_, ?_⟩ <;> apply BitVec.eq_of_getLsbD_eq <;> intro i hi <;>
    simp only [BitVec.getLsbD_extractLsb', BitVec.getLsbD_append, hi, decide_true, Bool.true_and]
  · simp [hi]
  · rw [if_neg (by omega), if_pos (by omega)]; congr 1; omega
  · rw [if_neg (by omega), if_neg (by omega), if_pos (by omega)]; congr 1; omega
  · rw [if_neg (by omega), if_neg (by omega), if_neg (by omega)]; congr 1; omega

/-! ### Operands -/

/-- The operand bytes of a well-formed operand decode to it (R109, R110). -/
theorem takeOperand_encode (reg : RegNum) (e : EOperand) (rest : List Byte) (h : e.wellFormed = true) :
    ∃ m ds, e.encode reg = m :: ds ∧ RegNum.ofCode (m.extractLsb' 3 3) = reg ∧
      takeOperand m (ds ++ rest) = some (e, ds.length) := by
  match e with
  | .reg r => refine ⟨_, [], rfl, ?_, ?_⟩ <;> cases reg <;> cases r <;> rfl
  | .mem (.direct d) =>
    refine ⟨_, _, rfl, ?_, ?_⟩
    · cases reg <;> rfl
    · cases reg <;> simp [takeOperand, halfBytes, RegNum.code, modrmByte]
  | .mem (.base b) =>
    refine ⟨_, [], rfl, ?_, ?_⟩
    · cases reg <;> cases b <;> rfl
    · cases b <;> first | (cases reg <;> rfl) | simp [EOperand.wellFormed, MemOperand.wellFormed] at h
  | .mem (.disp8 b d) => refine ⟨_, _, rfl, ?_, ?_⟩ <;> cases reg <;> cases b <;> rfl
  | .mem (.disp16 b d) =>
    refine ⟨_, _, rfl, ?_, ?_⟩
    · cases reg <;> cases b <;> rfl
    · cases reg <;> cases b <;>
        simp [takeOperand, halfBytes, RegNum.code, Base.code, modrmByte, Base.ofCode]

/-- A decoded operand is well-formed, and its bytes are those it was decoded from (R109, R110). -/
theorem takeOperand_inv {m : Byte} {bs : List Byte} {e : EOperand} {k : Nat} (h : takeOperand m bs = some (e, k)) :
    e.wellFormed = true ∧ k ≤ bs.length ∧ e.encode (RegNum.ofCode (m.extractLsb' 3 3)) = m :: bs.take k := by
  have hm := modrmByte_fields m
  have hmod : m.extractLsb' 6 2 = BitVec.ofNat 2 (m.extractLsb' 6 2).toNat := BitVec.eq_of_toNat_eq (by rw [BitVec.toNat_ofNat]; omega)
  have hlt := (m.extractLsb' 6 2).isLt
  simp only [takeOperand] at h
  split at h
  · rename_i h0
    rw [h0] at hmod
    split at h
    · rename_i h6
      split at h
      · cases h
        refine ⟨rfl, by simp, ?_⟩
        simp only [EOperand.encode, MemOperand.encode, RegNum.code_ofCode, halfBytes_half, List.take_succ_cons,
          List.take_zero, List.cons.injEq, and_true]
        rw [hmod, h6] at hm
        exact hm
      · cases h
    · rename_i h6
      cases h
      refine ⟨?_, by simp, ?_⟩
      · simp only [EOperand.wellFormed, MemOperand.wellFormed, bne_iff_ne, ne_eq]
        intro hb
        apply h6
        rw [← Base.code_ofCode (m.extractLsb' 0 3), hb]
        rfl
      · simp only [EOperand.encode, MemOperand.encode, RegNum.code_ofCode, Base.code_ofCode, List.take_zero]
        rw [hmod] at hm
        exact congrArg (· :: []) hm
  · rename_i h1
    rw [h1] at hmod
    split at h
    · cases h
      refine ⟨rfl, by simp, ?_⟩
      simp only [EOperand.encode, MemOperand.encode, RegNum.code_ofCode, Base.code_ofCode, List.take_succ_cons,
        List.take_zero, List.cons.injEq, and_true]
      rw [hmod] at hm
      exact hm
    · cases h
  · rename_i h2
    rw [h2] at hmod
    split at h
    · cases h
      refine ⟨rfl, by simp, ?_⟩
      simp only [EOperand.encode, MemOperand.encode, RegNum.code_ofCode, Base.code_ofCode, halfBytes_half,
        List.take_succ_cons, List.take_zero, List.cons.injEq, and_true]
      rw [hmod] at hm
      exact hm
    · cases h
  · rename_i n h0 h1 h2
    cases h
    refine ⟨rfl, by simp, ?_⟩
    have h3 : (m.extractLsb' 6 2).toNat = 3 := by
      have a0 : (m.extractLsb' 6 2).toNat ≠ 0 := h0
      have a1 : (m.extractLsb' 6 2).toNat ≠ 1 := h1
      have a2 : (m.extractLsb' 6 2).toNat ≠ 2 := h2
      omega
    rw [h3] at hmod
    simp only [EOperand.encode, RegNum.code_ofCode, List.take_zero]
    rw [hmod] at hm
    exact congrArg (· :: []) hm

theorem takeImmV_encode (opsize : Bool) (v : ImmV) (rest : List Byte) (h : v.wellFormed opsize = true) :
    takeImmV opsize (v.encode ++ rest) = some v := by
  cases v <;> cases opsize <;> simp [ImmV.wellFormed] at h <;> simp [takeImmV, ImmV.encode, halfBytes, wordBytes]

/-- A decoded Iv immediate is well-formed, and its bytes are those it was decoded from (R114). -/
theorem takeImmV_inv {opsize : Bool} {bs : List Byte} {v : ImmV} (h : takeImmV opsize bs = some v) :
    v.wellFormed opsize = true ∧ v.encode.length ≤ bs.length ∧ v.encode = bs.take v.encode.length := by
  unfold takeImmV at h
  split at h
  · cases h; refine ⟨rfl, ?_, ?_⟩ <;> simp [ImmV.encode, halfBytes_half]
  · cases h; refine ⟨rfl, ?_, ?_⟩ <;> simp [ImmV.encode, wordBytes_word]
  · cases h

/-! ### The decoder on a row -/

theorem decodeUnit_plain {op : Byte} {t : Tail} (h : opcodeRow op = .plain t) (opsize : Bool) (bs : List Byte) :
    decodeUnit opsize (op :: bs) = t.decode opsize 1 bs := by
  simp only [decodeUnit, h]

theorem decodeUnit_none {op : Byte} (h : opcodeRow op = .none) (opsize : Bool) (bs : List Byte) :
    decodeUnit opsize (op :: bs) = .fault (.opcode op) 1 := by
  simp only [decodeUnit, h]

/-- The decoder on a row with a ModRM byte, at the bytes of a well-formed operand. -/
theorem decodeUnit_modrm {op : Byte} {f : RegNum → EOperand → Tail} (h : opcodeRow op = .modrm f) (opsize : Bool)
    (reg : RegNum) (e : EOperand) (bs : List Byte) (he : e.wellFormed = true) :
    decodeUnit opsize (op :: (e.encode reg ++ bs)) = (f reg e).decode opsize (1 + (e.encode reg).length) bs := by
  obtain ⟨m, ds, h1, h2, h3⟩ := takeOperand_encode reg e bs he
  rw [h1]
  simp only [decodeUnit, h, List.cons_append, h3, h2, List.drop_left, List.length_cons]
  congr 1
  omega

/-! ### More bytes after an instruction -/

theorem takeImmV_append {opsize : Bool} {bs : List Byte} {v : ImmV} (h : takeImmV opsize bs = some v)
    (more : List Byte) : takeImmV opsize (bs ++ more) = some v := by
  unfold takeImmV at h
  split at h
  · exact h
  · exact h
  · cases h

theorem takeOperand_append {m : Byte} {bs : List Byte} {x : EOperand × Nat} (h : takeOperand m bs = some x)
    (more : List Byte) : takeOperand m (bs ++ more) = some x := by
  simp only [takeOperand] at h ⊢
  split at h
  · split at h
    · split at h
      · simp_all
      · cases h
    · simp_all
  · split at h
    · simp_all
    · cases h
  · split at h
    · simp_all
    · cases h
  · simp_all

theorem Tail.decode_append {opsize : Bool} {len : Nat} {bs : List Byte} {t : Tail}
    (h : t.decode opsize len bs ≠ .short) (more : List Byte) :
    t.decode opsize len (bs ++ more) = t.decode opsize len bs := by
  cases t <;> simp only [Tail.decode] at h ⊢
  case badImm8 => cases bs <;> simp_all
  case imm8 => cases bs <;> simp_all
  case badImmV =>
    cases hv : takeImmV opsize bs
    · simp [hv] at h
    · simp only [takeImmV_append hv]
  case immV =>
    cases hv : takeImmV opsize bs
    · simp [hv] at h
    · simp only [takeImmV_append hv]
  case imm16 =>
    split at h
    · rfl
    · simp at h
  case far =>
    split at h
    · rfl
    · simp at h

/-- Bytes after an instruction do not change what is decoded (R123). -/
theorem decodeUnit_append {opsize : Bool} {bs : List Byte} (h : decodeUnit opsize bs ≠ .short) (more : List Byte) :
    decodeUnit opsize (bs ++ more) = decodeUnit opsize bs := by
  cases bs with
  | nil => simp [decodeUnit] at h
  | cons b bs =>
    simp only [List.cons_append, decodeUnit] at h ⊢
    cases hr : opcodeRow b <;> simp only [hr] at h ⊢
    · exact Tail.decode_append h more
    · cases bs with
      | nil => simp at h
      | cons m bs =>
        simp only [List.cons_append] at h ⊢
        cases ht : takeOperand m bs with
        | none => simp [ht] at h
        | some x =>
          obtain ⟨e, k⟩ := x
          have hk := (takeOperand_inv ht).2.1
          simp only [ht, takeOperand_append ht] at h ⊢
          rw [List.drop_append_of_le_length hk]
          exact Tail.decode_append h more

theorem finish_len {opsize : Bool} {i j : Instr} {len n : Nat} (h : finish opsize i len = .done j n) :
    i = j ∧ len = n ∧ (opsize && i.opsizeClass == .faults) = false := by
  unfold finish at h
  split at h
  · cases h
  · rename_i hc
    cases h
    exact ⟨rfl, rfl, by simpa using hc⟩

/-! ### Lengths -/

theorem Tail.decode_length {opsize : Bool} {len : Nat} {bs : List Byte} {t : Tail} :
    (∀ info n, t.decode opsize len bs = .fault info n → n ≤ len + bs.length) ∧
    ∀ i n, t.decode opsize len bs = .done i n → n ≤ len + bs.length := by
  have hf : ∀ (i : Instr) (k : Nat), k ≤ len + bs.length →
      (∀ info n, finish opsize i k = .fault info n → n ≤ len + bs.length) ∧
      ∀ j n, finish opsize i k = .done j n → n ≤ len + bs.length := by
    intro i k hk
    unfold finish
    split
    · exact ⟨fun _ _ h => (by cases h; exact hk), fun _ _ h => (by cases h)⟩
    · exact ⟨fun _ _ h => (by cases h), fun _ _ h => (by cases h; exact hk)⟩
  cases t <;> simp only [Tail.decode]
  case bad => exact ⟨fun _ _ h => (by cases h; omega), fun _ _ h => (by cases h)⟩
  case done => exact hf _ _ (by omega)
  case badImm8 => cases bs <;> simp
  case imm8 => cases bs with
    | nil => simp
    | cons b bs => exact hf _ _ (by simp)
  case badImmV =>
    cases hv : takeImmV opsize bs with
    | none => simp
    | some v => have := (takeImmV_inv hv).2.1; simp; omega
  case immV =>
    cases hv : takeImmV opsize bs with
    | none => simp
    | some v => have := (takeImmV_inv hv).2.1; exact hf _ _ (by omega)
  case imm16 =>
    split
    · exact hf _ _ (by simp)
    · simp
  case far =>
    split
    · exact hf _ _ (by simp)
    · simp

/-- A decoded instruction, or what a DecodeFault fetched, is no longer than the bytes given. -/
theorem decodeUnit_length {opsize : Bool} {bs : List Byte} :
    (∀ info n, decodeUnit opsize bs = .fault info n → n ≤ bs.length) ∧
    ∀ i n, decodeUnit opsize bs = .done i n → n ≤ bs.length := by
  cases bs with
  | nil => simp [decodeUnit]
  | cons b bs =>
    simp only [decodeUnit]
    cases hr : opcodeRow b with
    | none => simp
    | plain t => simp only [List.length_cons, Nat.add_comm bs.length 1]; exact Tail.decode_length
    | modrm f =>
      cases bs with
      | nil => simp
      | cons m bs =>
        simp only
        cases ht : takeOperand m bs with
        | none => simp
        | some x =>
          obtain ⟨e, k⟩ := x
          have hk := (takeOperand_inv ht).2.1
          have e : (b :: m :: bs).length = 2 + k + (bs.drop k).length := by simp; omega
          rw [e]
          exact Tail.decode_length

/-- The decoder on the bytes of an Iv immediate. -/
theorem Tail.decode_immV {opsize : Bool} {len : Nat} {iv : ImmV} (f : ImmV → Instr) (rest : List Byte)
    (h : iv.wellFormed opsize = true) :
    (Tail.immV f).decode opsize len (iv.encode ++ rest) = finish opsize (f iv) (len + iv.encode.length) := by
  simp only [Tail.decode, takeImmV_encode opsize iv rest h]

end Sys2Proof
end

