-- ==== Sys2Proof/Laws/Cycle.lean ====
section
/-! SUPPORT. The cycle: which bytes are fetched, what prefixes do, when an instruction executes (R101 to R105, R500). -/

namespace Sys2Proof.Machine

theorem step_of_noInput {s : State} (h : s.noInput) : step s = cycle s := by
  unfold step stepOnce State.environmentPhase
  rw [h]

theorem cycle_of_executes {s : State} (h : s.executes) : cycle s = executeOne s := by
  unfold cycle
  rw [h.1, h.2]
  rfl

/-! ### Fetching -/

theorem State.fetchBytes_length_le (s : State) (n : Nat) (off : Half) : (s.fetchBytes n off).length ≤ n := by
  induction n generalizing off with
  | zero => simp [State.fetchBytes]
  | succ n ih =>
    unfold State.fetchBytes
    split
    · simp only [List.length_cons]; have := ih (off + 1); omega
    · simp

/-- Backed bytes in memory are fetched (R102). -/
theorem State.fetchBytes_prefix (s : State) (bs : List Byte) (n : Nat) (off : Half) (hn : bs.length ≤ n)
    (h : ∀ k, ∀ hk : k < bs.length, s.byteAddr s.sregs.cs off k < s.params.ramSize ∧
      s.mem.read (s.byteAddr s.sregs.cs off k) = bs[k]'hk) : ∃ more, s.fetchBytes n off = bs ++ more := by
  induction bs generalizing n off with
  | nil => exact ⟨_, rfl⟩
  | cons b bs ih =>
    cases n with
    | zero => simp at hn
    | succ n =>
      have h0 := h 0 (by simp)
      rw [State.byteAddr_zero] at h0
      obtain ⟨more, hm⟩ := ih n (off + 1) (by simpa using hn) fun k hk => by
        have := h (k + 1) (by simpa using hk)
        rw [State.byteAddr_succ] at this
        exact this
      refine ⟨more, ?_⟩
      have hk : s.backed (linear (s.sreg .cs) off) = true := decide_eq_true h0.1
      have hv : s.byteAt (linear (s.sreg .cs) off) = b := h0.2
      unfold State.fetchBytes
      rw [if_pos hk, hv, hm]
      rfl

/-- The window of a decode begins with the bytes at CS:ip (R101, R102). -/
theorem State.fetchWindow_of_CodeAt {s : State} {bs : List Byte} (h : s.CodeAt bs)
    (hn : bs.length ≤ s.params.maxInsnLen) : ∃ more, s.startDecode.fetchWindow = bs ++ more :=
  s.startDecode.fetchBytes_prefix bs _ _ hn h

/-! ### Prefixes and the instruction -/

/-- The row of a prefix byte. -/
def Pfx.instr : Pfx → Instr
  | .opsize => .prefixOpsize
  | .seg .es => .prefixEs
  | .seg .cs => .prefixCs
  | .seg .ss => .prefixSs
  | .seg .ds => .prefixDs

/-- A prefix byte's effect on the latches (R104). -/
def State.latch (s : State) : Pfx → State
  | .opsize => { s with opsizePfx := true }
  | .seg i => { s with segPfx := some i }

theorem decodeUnit_pfx (opsize : Bool) (p : Pfx) (bs : List Byte) :
    decodeUnit opsize (p.byte :: bs) = .done p.instr 1 := by
  cases p with
  | opsize => cases opsize <;> rfl
  | seg i => cases i <;> cases opsize <;> rfl

theorem exec_pfx (p : Pfx) (s : State) : exec p.instr s = .next (s.latch p) := by
  cases p with
  | opsize => rfl
  | seg i => cases i <;> rfl

/-- A prefix byte sets its latch and the decode goes on (R101, R104). -/
theorem runUnits_pfx (start : State) (window : List Byte) (fuel : Nat) (p : Pfx) (bs : List Byte) (s : State) :
    runUnits start window (fuel + 1) (p.byte :: bs) s = runUnits start window fuel bs ((s.advance 1).latch p) := by
  have hp : p.instr.isPrefixByte = true := by
    cases p with
    | opsize => rfl
    | seg i => cases i <;> rfl
  unfold runUnits
  rw [decodeUnit_pfx]
  simp only [hp, if_true, exec_pfx]
  cases fuel <;> rfl

/-- The instruction executes when its last byte is fetched (R101). -/
theorem runUnits_done {start : State} {window : List Byte} {fuel : Nat} {bs : List Byte} {s : State} {i : Instr}
    {n : Nat} (h : decodeUnit s.opsizePfx bs = .done i n) (hp : i.isPrefixByte = false) :
    runUnits start window (fuel + 1) bs s = exec i (s.advance n) := by
  unfold runUnits
  rw [h]
  simp [hp]

/-- A DecodeFault is raised with the bytes fetched so far (R510). -/
theorem runUnits_fault {start : State} {window : List Byte} {fuel : Nat} {bs : List Byte} {s : State}
    {info : DecodeInfo} {n : Nat} (h : decodeUnit s.opsizePfx bs = .fault info n) :
    runUnits start window (fuel + 1) bs s =
      start.decodeFault (window.take (window.length - bs.length + n)) info := by
  unfold runUnits
  rw [h]

/-- The latches and ip after a list of prefixes. -/
def State.latchAll (s : State) : List Pfx → State
  | [] => s
  | p :: ps => ((s.advance 1).latch p).latchAll ps

/-- The prefixes of an instruction are run through, each setting its latch (R101, R105). -/
theorem runUnits_pfxs (start : State) (window : List Byte) (ps : List Pfx) (fuel : Nat) (bs : List Byte) (s : State) :
    runUnits start window (fuel + ps.length) (ps.map Pfx.byte ++ bs) s =
      runUnits start window fuel bs (s.latchAll ps) := by
  induction ps generalizing s with
  | nil => rfl
  | cons p ps ih =>
    rw [List.length_cons, ← Nat.add_assoc, List.map_cons, List.cons_append, runUnits_pfx, ih]
    rfl

/-- The records of fetching bytes are those of reading them (R102, R570). -/
theorem State.fetchRecords_eq (s : State) (n : Nat) (off : Half) :
    s.fetchRecords n off = s.segRecords .read s.sregs.cs off n := by
  induction n generalizing off with
  | zero => rfl
  | succ n ih => rw [State.segRecords_succ, ← ih]; rfl

/-- `ip` behind the fetched bytes, the fetches traced, nothing else changed. -/
theorem State.advance_eq (s : State) (n : Nat) :
    s.advance n = { s with
      ip := s.ip + BitVec.ofNat 16 n
      trace := s.trace ++ s.segRecords .read s.sregs.cs s.ip n } := by
  rw [← State.fetchRecords_eq]; rfl

theorem add_ofNat (x : Half) (m n : Nat) : x + BitVec.ofNat 16 m + BitVec.ofNat 16 n = x + BitVec.ofNat 16 (m + n) := by
  apply BitVec.eq_of_toNat_eq
  simp only [BitVec.toNat_add, BitVec.toNat_ofNat]
  omega

/-- The latches after a list of prefixes (R105). -/
theorem State.latchAll_eq (s : State) (ps : List Pfx) :
    s.latchAll ps = { s with
      ip := s.ip + BitVec.ofNat 16 ps.length
      opsizePfx := s.opsizePfx || pfxOpsize ps
      segPfx := (pfxSeg ps).or s.segPfx
      trace := s.trace ++ s.segRecords .read s.sregs.cs s.ip ps.length } := by
  induction ps generalizing s with
  | nil => simp [State.latchAll, pfxOpsize, pfxSeg, State.segRecords, State.recordsOf]
  | cons p ps ih =>
    have hip := add_ofNat s.ip 1 ps.length
    rw [Nat.add_comm] at hip
    have hl := s.segRecords_append .read s.sregs.cs s.ip 1 ps.length
    rw [Nat.add_comm 1] at hl
    unfold State.latchAll
    rw [ih, State.advance_eq]
    cases p with
    | opsize =>
      simp only [State.latch, List.length_cons, ← hip, ← hl, List.append_assoc]
      simp [pfxOpsize, pfxSeg]
      rfl
    | seg i =>
      simp only [State.latch, List.length_cons, ← hip, ← hl, List.append_assoc]
      cases hs : pfxSeg ps <;> simp [pfxOpsize, pfxSeg, hs] <;> rfl

/-- The state in which a prefixed instruction executes (R28, R32, R101). -/
theorem State.latchAll_fetched (s : State) (ps : List Pfx) (n : Nat) :
    (s.startDecode.latchAll ps).advance n = s.fetched ps (ps.length + n) := by
  have hl := s.segRecords_append .read s.sregs.cs s.ip ps.length n
  rw [State.latchAll_eq, State.advance_eq]
  simp only [State.startDecode, State.fetched, Bool.false_or, Option.or_none, ← hl, ← add_ofNat, ← List.append_assoc]
  rfl

end Sys2Proof.Machine
end

