-- ==== Sys2Proof/Laws/Devices.lean ====
section
/-! SUPPORT. What the interrupt lines, the devices, the bus and the reset pass can change (R412, R421, R503, R530 to
R533, R602), and that they keep the tables well-formed. -/

namespace Sys2Proof.Machine

/-! ### Interrupt lines -/

theorem State.lineHeld_iff (s : State) (n : Nat) : s.lineHeld n = true ↔ ∃ d, (d, n) ∈ s.lineOf := by
  simp only [State.lineHeld, List.any_eq_true, beq_iff_eq]
  constructor
  · rintro ⟨⟨d, k⟩, h, rfl⟩; exact ⟨d, h⟩
  · rintro ⟨d, h⟩; exact ⟨(d, n), h, rfl⟩

theorem State.mem_freeLines (s : State) (n : Nat) : n ∈ s.freeLines ↔ n < s.params.nlines ∧ s.lineHeld n = false := by
  simp [State.freeLines]

/-- An allocated line is one of the free ones (R531). -/
theorem allocLine_mem {prefs free : List Nat} {n : Nat} (h : allocLine prefs free = some n) : n ∈ free := by
  unfold allocLine at h
  split at h
  · rename_i m hm
    cases h
    simpa using List.find?_some hm
  · exact List.mem_of_head? h

/-- Some line is allocated when one is free (R531). -/
theorem allocLine_eq_none {prefs free : List Nat} : allocLine prefs free = none ↔ free = [] := by
  constructor
  · intro h
    unfold allocLine at h
    split at h
    · cases h
    · exact List.head?_eq_none_iff.1 h
  · rintro rfl
    have : prefs.find? (fun _ => false) = none := by induction prefs <;> simp_all
    simp [allocLine, this]

/-- `raise` and `clear` keep each raised line raised once, and held by a device (R38, R532, R533). -/
theorem State.pendingOk_raiseLine {s : State} (h : s.pendingOk) (n : Nat) : (s.raiseLine n).pendingOk := by
  unfold State.raiseLine
  split
  · rename_i hl
    refine ⟨Rising.pairwise_put n h.1, fun m hm => ?_⟩
    rcases (Rising.mem_put n m s.pending).1 hm with rfl | hm
    · exact hl
    · exact h.2 m hm
  · exact h

theorem State.pendingOk_clearLine {s : State} (h : s.pendingOk) (n : Nat) : (s.clearLine n).pendingOk :=
  ⟨Rising.pairwise_erase n h.1, fun m hm => h.2 m ((Rising.mem_erase n m s.pending).1 hm).1⟩

/-! ### What a device can change -/

/-- The two states differ in the fields a device handler or `update()` can change and in no other (R412, R503). -/
def State.DeviceFrame (s t : State) : Prop :=
  t = { s with
    pending := t.pending
    a20 := t.a20
    devices := t.devices
    replies := t.replies
    portCalls := t.portCalls
    busLog := t.busLog }

theorem State.DeviceFrame.refl (s : State) : s.DeviceFrame s := rfl

theorem State.DeviceFrame.trans {s t u : State} (h : s.DeviceFrame t) (h' : t.DeviceFrame u) : s.DeviceFrame u := by
  unfold State.DeviceFrame at *
  rw [h']
  rw [h]

/-- The parts of the state a device cannot change. -/
structure State.DeviceFrame.Fields (s t : State) : Prop where
  regs : t.regs = s.regs
  sregs : t.sregs = s.sregs
  ip : t.ip = s.ip
  ipStart : t.ipStart = s.ipStart
  flags : t.flags = s.flags
  opsizePfx : t.opsizePfx = s.opsizePfx
  segPfx : t.segPfx = s.segPfx
  halted : t.halted = s.halted
  mem : t.mem = s.mem
  owner : t.owner = s.owner
  lineOf : t.lineOf = s.lineOf
  watch : t.watch = s.watch
  params : t.params = s.params
  phases : t.phases = s.phases
  trace : t.trace = s.trace

theorem State.DeviceFrame.fields {s t : State} (h : s.DeviceFrame t) : State.DeviceFrame.Fields s t := by
  unfold State.DeviceFrame at h
  constructor <;> rw [h]

theorem State.deviceFrame_raiseLine (s : State) (n : Nat) : s.DeviceFrame (s.raiseLine n) := by
  unfold State.raiseLine; split <;> rfl

theorem State.deviceFrame_raiseOwn (s : State) (d : DeviceId) : s.DeviceFrame (s.raiseOwn d) := by
  unfold State.raiseOwn
  split
  · exact s.deviceFrame_raiseLine _
  · rfl

theorem State.deviceFrame_clearOwn (s : State) (d : DeviceId) : s.DeviceFrame (s.clearOwn d) := by
  unfold State.clearOwn; split <;> rfl

theorem State.deviceFrame_diskEvent (s : State) (d : DeviceId) (n : Nat) (ev : DiskEvent) :
    s.DeviceFrame (s.diskEvent d n ev) := by
  unfold State.diskEvent
  split
  · dsimp only
    split <;> rfl
  · rfl
  · rfl

theorem State.deviceFrame_deviceAction (s : State) (d : DeviceId) (n : Nat) (a : DeviceAction) :
    s.DeviceFrame (s.deviceAction d n a) := by
  cases a
  · exact s.deviceFrame_raiseOwn d
  · exact s.deviceFrame_clearOwn d
  · rfl
  · exact s.deviceFrame_diskEvent d n _

/-- A device's actions change the lines, the gate, device-internal state and the log only (R412, R503). -/
theorem State.deviceFrame_deviceActions (s : State) (d : DeviceId) (n : Nat) (as : List DeviceAction) :
    s.DeviceFrame (s.deviceActions d n as) := by
  unfold State.deviceActions
  induction as generalizing s with
  | nil => rfl
  | cons a as ih => exact (s.deviceFrame_deviceAction d n a).trans (ih _)

/-- What the actions of device `d` can change, whole: the gate, the device's own line, its own internal state, and the
records of its operations on an empty slot (R36, R412, R422, R503, R532, R533, R558). -/
def State.ActionFrame (s : State) (d : DeviceId) (t : State) : Prop :=
  ∃ p a dv l, t = { s with pending := p, a20 := a, devices := dv, busLog := l ++ s.busLog } ∧
    (∀ n, Assoc.find d s.lineOf ≠ some n → (n ∈ p ↔ n ∈ s.pending)) ∧
    (∀ d', d' ≠ d → Assoc.find d' dv = Assoc.find d' s.devices) ∧ ∀ ev ∈ l, ev = .notPresent d

theorem State.ActionFrame.refl (s : State) (d : DeviceId) : s.ActionFrame d s :=
  ⟨s.pending, s.a20, s.devices, [], rfl, fun _ _ => .rfl, fun _ _ => rfl, by simp⟩

theorem State.ActionFrame.trans {s t u : State} {d : DeviceId} (h : s.ActionFrame d t) (h' : t.ActionFrame d u) :
    s.ActionFrame d u := by
  obtain ⟨p, a, dv, l, rfl, hp, hd, hl⟩ := h
  obtain ⟨p', a', dv', l', rfl, hp', hd', hl'⟩ := h'
  refine ⟨p', a', dv', l' ++ l, by simp, fun n hn => (hp' n hn).trans (hp n hn),
    fun x hx => (hd' x hx).trans (hd x hx), fun ev he => ?_⟩
  exact (List.mem_append.1 he).elim (hl' ev) (hl ev)

theorem State.actionFrame_deviceAction (s : State) (d : DeviceId) (n : Nat) (a : DeviceAction) :
    s.ActionFrame d (s.deviceAction d n a) := by
  cases a with
  | raise =>
    simp only [State.deviceAction, State.raiseOwn]
    split
    · rename_i m hm
      unfold State.raiseLine
      split
      · refine ⟨Rising.put m s.pending, s.a20, s.devices, [], rfl, fun k hk => ?_, fun _ _ => rfl, by simp⟩
        rw [Rising.mem_put]
        exact or_iff_right fun h => hk (by rw [hm, h])
      · exact .refl s d
    · exact .refl s d
  | clear =>
    simp only [State.deviceAction, State.clearOwn]
    split
    · rename_i m hm
      refine ⟨Rising.erase m s.pending, s.a20, s.devices, [], rfl, fun k hk => ?_, fun _ _ => rfl, by simp⟩
      rw [Rising.mem_erase]
      exact and_iff_left fun h => hk (by rw [hm, h])
    · exact .refl s d
  | gate b => exact ⟨s.pending, b, s.devices, [], rfl, fun _ _ => .rfl, fun _ _ => rfl, by simp⟩
  | disk ev =>
    simp only [State.deviceAction, State.diskEvent]
    split
    · rename_i c hc
      have hd : ∀ d', d' ≠ d → Assoc.find d' (Assoc.put d (.disk (c.event n ev)) s.devices) =
          Assoc.find d' s.devices := fun d' h => by rw [Assoc.find_put, if_neg h]
      split
      · exact ⟨s.pending, s.a20, _, [.notPresent d], rfl, fun _ _ => .rfl, hd, by simp⟩
      · exact ⟨s.pending, s.a20, _, [], rfl, fun _ _ => .rfl, hd, by simp⟩
    · exact .refl s d
    · exact .refl s d

/-- Everything a device's actions can change (R412, R422, R503). -/
theorem State.actionFrame_deviceActions (s : State) (d : DeviceId) (n : Nat) (as : List DeviceAction) :
    s.ActionFrame d (s.deviceActions d n as) := by
  unfold State.deviceActions
  induction as generalizing s with
  | nil => exact .refl s d
  | cons a as ih => exact (s.actionFrame_deviceAction d n a).trans (ih _)

theorem State.deviceFrame_nextReply (s : State) : s.DeviceFrame s.nextReply.1 := by
  unfold State.nextReply; split <;> rfl

theorem State.deviceFrame_noteAddressWrite (s : State) (d : DeviceId) (p : Half) :
    s.DeviceFrame (s.noteAddressWrite d p) := by
  unfold State.noteAddressWrite
  split
  · split <;> rfl
  · rfl

theorem State.deviceFrame_deviceRead (s : State) (d : DeviceId) (p : Half) (n : Nat) :
    s.DeviceFrame (s.deviceRead d p n).1 := by
  unfold State.deviceRead
  have h0 : s.DeviceFrame (s.log (.deviceRead d p n)) := rfl
  dsimp only
  split
  · exact h0
  · have h1 := h0.trans (State.deviceFrame_nextReply _)
    split <;> rename_i h <;> rw [h] at h1
    · exact h1.trans (State.deviceFrame_deviceActions _ _ _ _)
    · exact h1.trans rfl

theorem State.deviceFrame_deviceWrite (s : State) (d : DeviceId) (p : Half) (n : Nat) (v : Word) :
    s.DeviceFrame (s.deviceWrite d p n v) := by
  unfold State.deviceWrite
  have h0 : s.DeviceFrame (s.log (.deviceWrite d p n v)) := rfl
  have h1 := h0.trans (State.deviceFrame_nextReply _)
  split <;> rename_i h <;> rw [h] at h1
  · exact (h1.trans (State.deviceFrame_noteAddressWrite _ d p)).trans (State.deviceFrame_deviceActions _ _ _ _)
  · exact h1.trans rfl

/-- A port read changes nothing of the CPU, of memory, of the port map or of the line table (R412, R413, R421). -/
theorem State.deviceFrame_portRead (s : State) (p : Half) (n : Nat) : s.DeviceFrame (s.portRead p n).1 := by
  unfold State.portRead
  split
  · rfl
  · exact s.deviceFrame_deviceRead _ p n

/-- A port write changes nothing of the CPU, of memory, of the port map or of the line table (R412, R414, R421). -/
theorem State.deviceFrame_portWrite (s : State) (p : Half) (n : Nat) (v : Word) :
    s.DeviceFrame (s.portWrite p n v) := by
  unfold State.portWrite
  split
  · rfl
  · exact s.deviceFrame_deviceWrite _ p n v

/-! ### The raised lines stay well-formed -/

theorem State.pendingOk_deviceAction {s : State} (h : s.pendingOk) (d : DeviceId) (n : Nat) (a : DeviceAction) :
    (s.deviceAction d n a).pendingOk := by
  cases a
  · simp only [State.deviceAction, State.raiseOwn]
    split
    · exact State.pendingOk_raiseLine h _
    · exact h
  · simp only [State.deviceAction, State.clearOwn]
    split
    · exact State.pendingOk_clearLine h _
    · exact h
  · exact h
  · simp only [State.deviceAction, State.diskEvent]
    split
    · split <;> exact h
    · exact h
    · exact h

theorem State.pendingOk_deviceActions {s : State} (h : s.pendingOk) (d : DeviceId) (n : Nat)
    (as : List DeviceAction) : (s.deviceActions d n as).pendingOk := by
  unfold State.deviceActions
  induction as generalizing s with
  | nil => exact h
  | cons a as ih => exact ih (State.pendingOk_deviceAction h d n a)

theorem State.pendingOk_nextReply {s : State} (h : s.pendingOk) : s.nextReply.1.pendingOk := by
  unfold State.nextReply; split <;> exact h

theorem State.pendingOk_portRead {s : State} (h : s.pendingOk) (p : Half) (n : Nat) : (s.portRead p n).1.pendingOk := by
  unfold State.portRead
  split
  · exact h
  · rename_i d _
    unfold State.deviceRead
    dsimp only
    have h0 : (s.log (.deviceRead d p n)).pendingOk := h
    split
    · exact h0
    · have h1 := State.pendingOk_nextReply h0
      split <;> rename_i hr <;> rw [hr] at h1
      · exact State.pendingOk_deviceActions h1 _ _ _
      · exact h1

theorem State.pendingOk_noteAddressWrite {s : State} (h : s.pendingOk) (d : DeviceId) (p : Half) :
    (s.noteAddressWrite d p).pendingOk := by
  unfold State.noteAddressWrite
  split
  · split <;> exact h
  · exact h

theorem State.pendingOk_portWrite {s : State} (h : s.pendingOk) (p : Half) (n : Nat) (v : Word) :
    (s.portWrite p n v).pendingOk := by
  unfold State.portWrite
  split
  · exact h
  · rename_i d _
    unfold State.deviceWrite
    have h0 : (s.log (.deviceWrite d p n v)).pendingOk := h
    have h1 := State.pendingOk_nextReply h0
    split <;> rename_i hr <;> rw [hr] at h1
    · exact State.pendingOk_deviceActions (State.pendingOk_noteAddressWrite h1 d p) _ _ _
    · exact h1

/-! ### Reset (R602) -/

/-- The two states differ in the fields a device's `reset()` can change and in no other (R423, R556). -/
def State.ResetFrame (s t : State) : Prop :=
  t = { s with owner := t.owner, lineOf := t.lineOf, devices := t.devices, busLog := t.busLog }

theorem State.ResetFrame.trans {s t u : State} (h : s.ResetFrame t) (h' : t.ResetFrame u) : s.ResetFrame u := by
  unfold State.ResetFrame at *
  rw [h']
  rw [h]

theorem State.resetFrame_resetDeviceState (s : State) (x : DeviceSpec) : s.ResetFrame (s.resetDeviceState x) := by
  unfold State.resetDeviceState; split <;> rfl

theorem State.resetFrame_requestLine (s : State) (d : DeviceId) (prefs : List Nat) :
    s.ResetFrame (s.requestLine d prefs).1 := by
  unfold State.requestLine
  split
  · rfl
  · split <;> rfl

theorem State.resetFrame_requestIfWanted (s : State) (x : DeviceSpec) : s.ResetFrame (s.requestIfWanted x) := by
  unfold State.requestIfWanted
  split
  · exact s.resetFrame_requestLine _ _
  · rfl

theorem State.resetFrame_foldl {α : Type} (f : State → α → State) (h : ∀ (s : State) a, s.ResetFrame (f s a)) (s : State)
    (l : List α) : s.ResetFrame (l.foldl f s) := by
  induction l generalizing s with
  | nil => rfl
  | cons a l ih => exact (h s a).trans (ih _)

/-- A device's `reset()` changes the port map, the line table, device-internal state and the log only (R423). -/
theorem State.resetFrame_deviceReset (s : State) (x : DeviceSpec) : s.ResetFrame (s.deviceReset x) := by
  unfold State.deviceReset
  refine ((((s.resetFrame_resetDeviceState x).trans (State.resetFrame_requestIfWanted _ x)).trans
    (State.resetFrame_foldl _ ?_ _ _))).trans (State.resetFrame_foldl _ ?_ _ _)
  · intro s p; rfl
  · intro s p; rfl

/-- Port registration keeps the port map well-formed (R420, R421). -/
theorem State.portMapOk_registerPort {s : State} (h : s.portMapOk) (d : DeviceId) (p : Half) :
    (s.registerPort d p).portMapOk := by
  refine ⟨Assoc.sorted_put _ _ h.1, fun c hc => ?_⟩
  rcases (Assoc.mem_put _ _ _ _).1 hc with rfl | hc
  · exact p.isLt
  · exact h.2 c hc.1

theorem State.portMapOk_unregisterPort {s : State} (h : s.portMapOk) (p : Half) : (s.unregisterPort p).portMapOk :=
  ⟨Assoc.sorted_erase _ h.1, fun c hc => h.2 c ((Assoc.mem_erase _ _ _).1 hc).1⟩

/-- Who owns a port after one registration (R421). -/
theorem State.ownerOf_registerPort (s : State) (d : DeviceId) (p q : Half) :
    (s.registerPort d p).ownerOf q = if q = p then some d else s.ownerOf q := by
  simp only [State.ownerOf, State.registerPort, Assoc.find_put, ← BitVec.toNat_inj]

/-- Who owns a port after one is unregistered (R421). -/
theorem State.ownerOf_unregisterPort (s : State) (p q : Half) :
    (s.unregisterPort p).ownerOf q = if q = p then none else s.ownerOf q := by
  simp only [State.ownerOf, State.unregisterPort, Assoc.find_erase, ← BitVec.toNat_inj]

/-- A device that holds a line holds a held line (R38). -/
theorem State.lineHeld_of_find {s : State} {d : DeviceId} {n : Nat} (h : Assoc.find d s.lineOf = some n) :
    s.lineHeld n = true := by
  have key : ∀ l : List (Nat × Nat), Assoc.find d l = some n → l.any (fun c => c.2 == n) = true := by
    intro l
    induction l with
    | nil => simp [Assoc.find]
    | cons c l ih =>
      obtain ⟨a, b⟩ := c
      simp only [Assoc.find]
      split
      · rintro ⟨rfl⟩; simp
      · intro hl; simp [ih hl]
  exact key _ h

/-- A line request keeps the line table: one line per device, no line twice, all below `NLINES` (R38, R531). -/
theorem State.linesOk_requestLine {s : State} (h : s.linesOk) (d : DeviceId) (prefs : List Nat) :
    (s.requestLine d prefs).1.linesOk := by
  unfold State.requestLine
  split
  · exact h
  · split
    · rename_i hnone _ n hn
      have hfree := (s.mem_freeLines n).1 (allocLine_mem hn)
      have hd : ∀ c ∈ s.lineOf, c.1 ≠ d := by
        rintro ⟨d', k⟩ hc rfl
        rw [(Assoc.find_eq_some h.1 d' k).2 hc] at hnone
        cases hnone
      have hn' : n ∉ s.lineOf.map (·.2) := by
        intro hm
        obtain ⟨⟨d', k⟩, hc, rfl⟩ := List.mem_map.1 hm
        rw [(s.lineHeld_iff k).2 ⟨d', hc⟩] at hfree
        cases hfree.2
      refine ⟨Assoc.sorted_put _ _ h.1, ?_, fun c hc => ?_⟩
      · have he : Assoc.erase d s.lineOf = s.lineOf :=
          List.filter_eq_self.2 fun c hc => by simpa using hd c hc
        show ((Assoc.put d n s.lineOf).map (·.2)).Nodup
        rw [Assoc.put, he]
        have hperm : ∀ l : List (Nat × Nat), (Assoc.insert d n l).Perm ((d, n) :: l) := by
          intro l
          induction l with
          | nil => exact .refl _
          | cons c l ih =>
            obtain ⟨a, b⟩ := c
            unfold Assoc.insert
            split
            · exact .refl _
            · exact (ih.cons _).trans (.swap _ _ _)
        exact ((hperm s.lineOf).map (·.2)).nodup_iff.2 (List.nodup_cons.2 ⟨hn', h.2.1⟩)
      · rcases (Assoc.mem_put _ _ _ _).1 hc with rfl | hc
        · exact hfree.1
        · exact h.2.2 c hc.1
    · exact h

/-- A line request takes no line from any device (R531). -/
theorem State.pendingOk_requestLine {s : State} (h : s.pendingOk) (hl : s.linesOk) (d : DeviceId) (prefs : List Nat) :
    (s.requestLine d prefs).1.pendingOk := by
  unfold State.requestLine
  split
  · exact h
  · split
    · rename_i hnone _ n hn
      refine ⟨h.1, fun m hm => ?_⟩
      obtain ⟨d', hd'⟩ := (s.lineHeld_iff m).1 (h.2 m hm)
      refine (State.lineHeld_iff _ m).2 ⟨d', (Assoc.mem_put _ _ _ _).2 (.inr ⟨hd', ?_⟩)⟩
      rintro rfl
      rw [(Assoc.find_eq_some hl.1 _ m).2 hd'] at hnone
      cases hnone
    · exact h

end Sys2Proof.Machine
end

