-- ==== Sys2Proof/Laws/Flags.lean ====
section
/-! SUPPORT. What the flag computations and the bit operations of shifts are, as sums of bits and as numbers
(R200 to R204, R261 to R268). -/

namespace Sys2Proof.Machine

/-! ### Bits -/

/-- The parity flag is set when the eight low bits have the sum 0 modulo 2 (R8). -/
theorem parity8_xor {n : Nat} (r : BitVec n) :
    parity8 r = !(r.getLsbD 0 ^^ r.getLsbD 1 ^^ r.getLsbD 2 ^^ r.getLsbD 3 ^^ r.getLsbD 4 ^^ r.getLsbD 5 ^^
      r.getLsbD 6 ^^ r.getLsbD 7) := by
  unfold parity8
  simp only [List.range_succ, List.range_zero, List.countP_append, List.countP_cons, List.countP_nil]
  generalize r.getLsbD 0 = a0
  generalize r.getLsbD 1 = a1
  generalize r.getLsbD 2 = a2
  generalize r.getLsbD 3 = a3
  generalize r.getLsbD 4 = a4
  generalize r.getLsbD 5 = a5
  generalize r.getLsbD 6 = a6
  generalize r.getLsbD 7 = a7
  revert a0 a1 a2 a3 a4 a5 a6 a7
  decide

/-- A bit as a digit of the number. -/
theorem getLsbD_eq_digit {n : Nat} (x : BitVec n) (i : Nat) : x.getLsbD i = decide (x.toNat / 2 ^ i % 2 = 1) := by
  rw [BitVec.getLsbD, Nat.testBit_eq_decide_div_mod_eq]

theorem xor_three_iff (p q r : Prop) [Decidable p] [Decidable q] [Decidable r] :
    ((decide p ^^ decide q ^^ decide r) = true) ↔ ((p ↔ q) ↔ r) := by
  by_cases p <;> by_cases q <;> by_cases r <;> simp [*]

/-! ### Which flags stay -/

@[simp] theorem setSZP_ifl {n : Nat} (r : BitVec n) (f : Flags) : (setSZP r f).ifl = f.ifl := rfl

@[simp] theorem logicFlags_ifl {n : Nat} (r : BitVec n) (f : Flags) : (logicFlags r f).ifl = f.ifl := rfl

/-- Every two-operand result keeps IF (R29). -/
@[simp] theorem aluResult_ifl {n : Nat} (op : AluOp) (a b : BitVec n) (f : Flags) :
    (aluResult op a b f).2.ifl = f.ifl := by
  cases op <;> rfl

@[simp] theorem shiftResult_ifl (op : ShiftOp) (w : Width) (a : BitVec w.bits) (n : Nat) (f : Flags) :
    (shiftResult op w a n f).2.ifl = f.ifl := by
  cases op <;> rfl

/-- Loading the image of the flags gives the flags (R30). -/
theorem flagsOfImage_flagsImage (f : Flags) : flagsOfImage (flagsImage f) = f := by
  rcases f with ⟨a, b, c, d, e, f, g⟩
  revert a b c d e f g
  decide

/-- The image of the flags is never a refused one (R30, U7). -/
theorem unsupportedImage_flagsImage (f : Flags) : unsupportedImage (flagsImage f) = false := by
  rcases f with ⟨a, b, c, d, e, f, g⟩
  revert a b c d e f g
  decide

/-! ### Rotates and the arithmetic right shift -/

theorem rotl_getLsbD {n : Nat} (a : BitVec n) (e k : Nat) (he : e ≤ n) (hk : k < n) :
    (rotl a e).getLsbD k = a.getLsbD ((k + (n - e)) % n) := by
  simp only [rotl, BitVec.getLsbD_or, BitVec.getLsbD_shiftLeft, BitVec.getLsbD_ushiftRight, hk, decide_true,
    Bool.true_and]
  by_cases h : k < e
  · rw [Nat.mod_eq_of_lt (by omega), Nat.add_comm]
    simp [h]
  · rw [show k + (n - e) = (k - e) + n by omega, Nat.add_mod_right, Nat.mod_eq_of_lt (by omega)]
    simp only [h, decide_false, Bool.not_false, Bool.true_and]
    rw [BitVec.getLsbD_of_ge _ (n - e + k) (by omega)]
    simp

theorem rotr_getLsbD {n : Nat} (a : BitVec n) (e k : Nat) (he : e ≤ n) (hk : k < n) :
    (rotr a e).getLsbD k = a.getLsbD ((k + e) % n) := by
  simp only [rotr, BitVec.getLsbD_or, BitVec.getLsbD_shiftLeft, BitVec.getLsbD_ushiftRight, hk, decide_true,
    Bool.true_and]
  by_cases h : k + e < n
  · rw [Nat.mod_eq_of_lt h, Nat.add_comm]
    simp only [Bool.or_eq_left_iff_imp, Bool.and_eq_true, Bool.not_eq_true', decide_eq_false_iff_not, not_lt]
    omega
  · rw [show k + e = (k - (n - e)) + n by omega, Nat.add_mod_right, Nat.mod_eq_of_lt (by omega)]
    rw [BitVec.getLsbD_of_ge a (e + k) (by omega)]
    simp only [Bool.false_or, Bool.and_eq_right_iff_imp, Bool.not_eq_true', decide_eq_false_iff_not, not_lt]
    intro
    omega

/-- The value of SAR is the signed quotient by a power of two, rounded down (R268). -/
theorem sar_value (w : Width) (a : BitVec w.bits) (k : Nat) :
    ((a.signExtend 64).sshiftRight k).setWidth w.bits = BitVec.ofInt w.bits (a.toInt / 2 ^ k) := by
  have hw : w.bits ≤ 64 := by cases w <;> decide
  have h1 : ((a.signExtend 64).sshiftRight k).toInt = a.toInt / 2 ^ k := by
    rw [BitVec.toInt_sshiftRight, BitVec.toInt_signExtend_of_le hw, Int.shiftRight_eq_div_pow]; norm_cast
  rw [← h1]
  generalize (a.signExtend 64).sshiftRight k = x
  apply BitVec.eq_of_toInt_eq
  rw [BitVec.toInt_setWidth, BitVec.toInt_ofInt, BitVec.toInt_eq_toNat_bmod x, Int.bmod_bmod_of_dvd]
  exact_mod_cast Nat.pow_dvd_pow 2 hw

/-- The bits SAR shifts out: those of the operand, its sign above them (R268). -/
theorem sar_getLsbD (w : Width) (a : BitVec w.bits) (k : Nat) (hk : k < 64) :
    (a.signExtend 64).getLsbD k = a.getLsbD (min k (w.bits - 1)) := by
  have hw : 0 < w.bits := by cases w <;> decide
  rw [BitVec.getLsbD_signExtend]
  simp only [hk, decide_true, Bool.true_and]
  split
  · rw [Nat.min_eq_left (by omega)]
  · rw [Nat.min_eq_right (by omega), BitVec.msb_eq_getLsbD_last]

/-! ### Division that rounds toward zero (R206) -/

theorem tmod_bounds (n d : Int) (hd : d ≠ 0) :
    |n.tmod d| < |d| ∧ (n.tmod d = 0 ∨ (0 < n.tmod d ↔ 0 < n)) := by
  refine ⟨?_, ?_⟩
  · rw [Int.abs_eq_natAbs, Int.abs_eq_natAbs, Int.natAbs_tmod]
    exact_mod_cast Nat.mod_lt _ (Int.natAbs_pos.2 hd)
  · rcases lt_trichotomy n 0 with h | h | h
    · have := Int.tmod_nonneg (a := -n) d (by omega)
      rw [Int.neg_tmod] at this
      by_cases h0 : n.tmod d = 0
      · exact .inl h0
      · right; omega
    · subst h; simp
    · have := Int.tmod_nonneg (a := n) d (by omega)
      by_cases h0 : n.tmod d = 0
      · exact .inl h0
      · right; omega

/-- The quotient that rounds toward zero and its remainder are the only ones with these bounds (R206). -/
theorem tdiv_tmod_unique (n d q r : Int) (hd : d ≠ 0) (h : n = q * d + r) (hr : |r| < |d|)
    (hs : r = 0 ∨ (0 < r ↔ 0 < n)) : n.tdiv d = q ∧ n.tmod d = r := by
  obtain ⟨a1, a2⟩ := tmod_bounds n d hd
  have hm : n.tmod d = r := by
    have e := Int.mul_tdiv_add_tmod n d
    have hdiv : d ∣ n.tmod d - r := ⟨q - n.tdiv d, by linear_combination e + h⟩
    have b1 : -|d| < n.tmod d ∧ n.tmod d < |d| := abs_lt.1 a1
    have b2 : -|d| < r ∧ r < |d| := abs_lt.1 hr
    have b3 : -|d| < n.tmod d - r ∧ n.tmod d - r < |d| := by
      generalize |d| = D at *
      constructor <;> omega
    have := Int.eq_zero_of_abs_lt_dvd ((abs_dvd d _).2 hdiv) (abs_lt.2 b3)
    omega
  refine ⟨?_, hm⟩
  have := Int.tdiv_mul_add_tmod n d
  rw [hm] at this
  exact Int.eq_of_mul_eq_mul_right hd (by omega)

end Sys2Proof.Machine
end

