-- ==== Sys2Proof/Laws/Registers.lean ====
section
/-! SUPPORT. The register file: what a view reads after a write (R20 to R25). -/

namespace Sys2Proof.Machine

theorem Regs.get_set (g : Regs) (i j : RegNum) (v : Word) : (g.set i v).get j = if j = i then v else g.get j := by
  cases i <;> cases j <;> rfl

theorem SRegs.get_set (g : SRegs) (i j : SReg) (v : Half) : (g.set i v).get j = if j = i then v else g.get j := by
  cases i <;> cases j <;> rfl

/-- Two register files with equal registers are equal. -/
theorem Regs.eq_of_get {g h : Regs} (e : ∀ i, g.get i = h.get i) : g = h := by
  cases g; cases h
  simp only [Regs.mk.injEq]
  exact ⟨e .r0, e .r1, e .r2, e .r3, e .r4, e .r5, e .r6, e .r7⟩

theorem SRegs.eq_of_get {g h : SRegs} (e : ∀ i, g.get i = h.get i) : g = h := by
  cases g; cases h
  simp only [SRegs.mk.injEq]
  exact ⟨e .es, e .cs, e .ss, e .ds⟩

/-- The machine's register read is the view (R20 to R23). -/
theorem State.readReg_eq_view (s : State) (w : Width) (i : RegNum) : s.readReg w i = s.regs.view w i := by
  cases w
  · cases i <;> rfl
  · rfl
  · change s.regs.get i = (s.regs.get i).extractLsb' 0 32
    apply BitVec.eq_of_getLsbD_eq
    intro k hk
    simp [hk]

theorem setLowHalf_getLsbD (x : Word) (v : Half) (k : Nat) (hk : k < 32) :
    (setLowHalf x v).getLsbD k = if k < 16 then v.getLsbD k else x.getLsbD k := by
  simp only [setLowHalf, BitVec.getLsbD_append, BitVec.getLsbD_extractLsb']
  split
  · rfl
  · rw [show 16 + (k - 16) = k by omega]; simp; omega

theorem setLowByte_getLsbD (x : Word) (v : Byte) (k : Nat) (hk : k < 32) :
    (setLowByte x v).getLsbD k = if k < 8 then v.getLsbD k else x.getLsbD k := by
  simp only [setLowByte, BitVec.getLsbD_append, BitVec.getLsbD_extractLsb']
  split
  · rfl
  · rw [show 8 + (k - 8) = k by omega]; simp; omega

theorem setHighByte_getLsbD (x : Word) (v : Byte) (k : Nat) (hk : k < 32) :
    (setHighByte x v).getLsbD k = if 8 ≤ k ∧ k < 16 then v.getLsbD (k - 8) else x.getLsbD k := by
  simp only [setHighByte, BitVec.getLsbD_append, BitVec.getLsbD_extractLsb']
  by_cases h8 : k < 8
  · rw [if_pos h8, if_neg (by omega)]; simp [h8]
  · by_cases h16 : k < 16
    · rw [if_neg h8, if_pos (by omega), if_pos ⟨by omega, h16⟩]
    · rw [if_neg h8, if_neg (by omega), if_neg (by omega), show 16 + (k - 8 - 8) = k by omega]
      simp; omega

/-- A register write writes the bits of its view and no others (R20 to R23). -/
theorem Regs.write_wrote (g : Regs) (w : Width) (i : RegNum) (v : BitVec w.bits) : g.Wrote w i v (g.write w i v) := by
  intro j k hk
  cases w
  case w16 =>
    simp only [Regs.write, Regs.get_set, viewHome, viewLow]
    by_cases h : j = i
    · subst h; simp [setLowHalf_getLsbD _ _ _ hk]
    · simp [h]
  case w32 =>
    simp only [Regs.write, Regs.get_set, viewHome, viewLow]
    by_cases h : j = i
    · subst h; simp [hk]
    · simp [h]
  case w8 =>
    simp only [Regs.write, Regs.get_set]
    cases i <;> simp only [byteView, viewHome, viewLow, if_true, Bool.false_eq_true, if_false] <;>
      split <;> rename_i h <;>
      simp only [h, true_and, false_and, if_false, setLowByte_getLsbD _ _ _ hk, setHighByte_getLsbD _ _ _ hk,
        Nat.zero_le, Nat.zero_add, Nat.sub_zero, show Width.w8.bits = 8 from rfl, Nat.reduceAdd]

/-- A register file is determined by the bits a write gives it. -/
theorem Regs.Wrote.unique {g g₁ g₂ : Regs} {w : Width} {i : RegNum} {v : BitVec w.bits} (h₁ : g.Wrote w i v g₁)
    (h₂ : g.Wrote w i v g₂) : g₁ = g₂ :=
  Regs.eq_of_get fun j => BitVec.eq_of_getLsbD_eq fun k hk => by rw [h₁ j k hk, h₂ j k hk]

theorem viewLow_add_bits_le (w : Width) (i : RegNum) : viewLow w i + w.bits ≤ 32 := by
  cases w <;> cases i <;> decide

/-- A view reads what was written to it. -/
theorem Regs.view_write_same (g : Regs) (w : Width) (i : RegNum) (v : BitVec w.bits) :
    (g.write w i v).view w i = v := by
  apply BitVec.eq_of_getLsbD_eq
  intro k hk
  have h32 : viewLow w i + k < 32 := by
    have := viewLow_add_bits_le w i
    omega
  simp only [Regs.view, BitVec.getLsbD_extractLsb', hk, decide_true, Bool.true_and, g.write_wrote w i v _ _ h32]
  rw [if_pos ⟨trivial, by omega, by omega⟩]
  congr 1
  omega

/-- A write to another register leaves a 16-bit or 32-bit view as it was. -/
theorem Regs.view_write_other (g : Regs) (w w' : Width) (i j : RegNum) (v : BitVec w.bits)
    (h : viewHome w' j ≠ viewHome w i) : (g.write w i v).view w' j = g.view w' j := by
  unfold Regs.view
  congr 1
  apply BitVec.eq_of_getLsbD_eq
  intro k hk
  rw [g.write_wrote w i v _ _ hk, if_neg fun hc => h hc.1]

@[simp] theorem State.sp_eq (s : State) : s.sp = s.regs.view .w16 .r4 := s.readReg_eq_view .w16 .r4

end Sys2Proof.Machine
end

