-- ==== Sys2Proof/Laws/Operands.lean ====
section
/-! SUPPORT. One lemma for each operand and stack operation, for taking an exception or interrupt and for returning,
that says all it can do (R110 to R112, R300, R301, R373, R520). -/

namespace Sys2Proof

theorem Width.bits_eq (w : Width) : w.bits = 8 * w.bytes := by cases w <;> rfl

theorem Width.bytes_le (w : Width) : w.bytes ≤ 4 := by cases w <;> decide

end Sys2Proof

namespace Sys2Proof.Machine

theorem byteOf_setWidth {b c : Nat} (v : BitVec b) (k : Nat) (h : 8 * k + 8 ≤ c) :
    byteOf (v.setWidth c) k = byteOf v k := by
  apply BitVec.eq_of_getLsbD_eq
  intro i hi
  simp only [byteOf, BitVec.getLsbD_extractLsb', BitVec.getLsbD_setWidth, hi, decide_true, Bool.true_and]
  simp only [show 8 * k + i < c by omega, decide_true, Bool.true_and]

theorem State.Stores.of_setWidth {s : State} {sel off : Half} {n b c : Nat} {v : BitVec b} {m : Memory}
    (hc : 8 * n ≤ c) (h : s.Stores sel off n (v.setWidth c) m) : s.Stores sel off n v m :=
  ⟨fun k hk => by rw [h.1 k hk, byteOf_setWidth _ _ (by omega)], h.2⟩

/-! ### Addresses of operands (R110, R111) -/

theorem State.baseValue_congr {s t : State} (h : t.regs = s.regs) (b : Base) : t.baseValue b = s.baseValue b := by
  cases b <;> simp only [State.baseValue, State.readReg, h]

/-- The effective offset depends on the registers alone. -/
theorem State.eaOff_congr {s t : State} (h : t.regs = s.regs) (m : MemOperand) : t.eaOff m = s.eaOff m := by
  cases m <;> simp only [State.eaOff, State.baseValue_congr h]

/-- The segment depends on the segment registers and the override latch alone. -/
theorem State.eaSeg_congr {s t : State} (h : t.sregs = s.sregs) (hp : t.segPfx = s.segPfx) (m : MemOperand) :
    t.eaSeg m = s.eaSeg m := by
  simp only [State.eaSeg, State.dataSeg, State.sreg, h, hp]

/-- No address form uses SP (R305). -/
theorem State.eaOff_setSp (s : State) (v : Half) (m : MemOperand) : (s.setSp v).eaOff m = s.eaOff m := by
  have h : ∀ b, (s.setSp v).baseValue b = s.baseValue b := by
    intro b
    have h3 := s.regs.view_write_other .w16 .w16 .r4 .r3 v (by decide)
    have h5 := s.regs.view_write_other .w16 .w16 .r4 .r5 v (by decide)
    have h6 := s.regs.view_write_other .w16 .w16 .r4 .r6 v (by decide)
    have h7 := s.regs.view_write_other .w16 .w16 .r4 .r7 v (by decide)
    cases b <;> simp only [State.baseValue, State.readReg_eq_view, State.setSp_regs, h3, h5, h6, h7]
  cases m <;> simp only [State.eaOff, h]

/-! ### Reading and writing operands (R112) -/

theorem State.readSeg_cases (s : State) (w : Width) (sel off : Half) :
    (s.segBacked sel off w.bytes ∧ ∃ a, s.readSeg w sel off = .ok a (s.segRecords .read sel off w.bytes) ∧
      s.Holds sel off w.bytes a) ∨
    ¬ s.segBacked sel off w.bytes ∧ s.readSeg w sel off = .error .memoryRange := by
  rcases s.segRead_cases sel off w.bytes with ⟨hb, h⟩ | ⟨hb, h⟩
  · exact .inl ⟨hb, _, by simp only [State.readSeg, h, Eff.ok_bind, Eff.after_ok, List.append_nil],
      s.Holds_segValue sel off w⟩
  · exact .inr ⟨hb, by simp only [State.readSeg, h, Eff.error_bind]⟩

/-- Memory holds one value of a width at an address. -/
theorem State.Holds.unique {s : State} {sel off : Half} {w : Width} {a b : BitVec w.bits}
    (ha : s.Holds sel off w.bytes a) (hb : s.Holds sel off w.bytes b) : a = b := by
  rw [← s.segValue_eq_of_Holds sel off w a ha, s.segValue_eq_of_Holds sel off w b hb]

theorem State.readSeg_ok {s : State} {w : Width} {sel off : Half} {a : BitVec w.bits}
    (hb : s.segBacked sel off w.bytes) (h : s.Holds sel off w.bytes a) :
    s.readSeg w sel off = .ok a (s.segRecords .read sel off w.bytes) := by
  rcases s.readSeg_cases w sel off with ⟨-, b, hr, hh⟩ | ⟨hn, -⟩
  · rw [hr, hh.unique h]
  · exact absurd hb hn

/-- Everything `SegWrite` of an operand can do. -/
theorem State.writeSeg_cases (s : State) (w : Width) (sel off : Half) (v : BitVec w.bits) :
    (s.segBacked sel off w.bytes ∧ ∃ m,
      s.writeSeg w sel off v = .ok { s with mem := m } (s.segRecords .write sel off w.bytes) ∧
      s.Stores sel off w.bytes v m ∧ s.mem.Grown s.params.ramSize m) ∨
    ¬ s.segBacked sel off w.bytes ∧ s.writeSeg w sel off v = .error .memoryRange := by
  have hw := w.bytes_le
  rcases s.segWrite_cases sel off w.bytes (v.setWidth 32) (by omega) with ⟨hb, m, h, hs, hg⟩ | h
  · exact .inl ⟨hb, m, h, hs.of_setWidth (by omega), hg⟩
  · exact .inr h

/-- Everything `ReadE` can do (R112). -/
theorem State.readE_cases (s : State) (w : Width) (e : EOperand) :
    (s.operandBacked w e = true ∧ ∃ a, s.readE w e = .ok a (s.operandRecords .read w e) ∧ s.Reads w e a) ∨
    s.operandBacked w e = false ∧ s.readE w e = .error .memoryRange := by
  cases e with
  | reg i => exact .inl ⟨rfl, _, rfl, (s.readReg_eq_view w i).symm⟩
  | mem m =>
    rcases s.readSeg_cases w (s.eaSeg m) (s.eaOff m) with ⟨hb, h⟩ | ⟨hb, h⟩
    · exact .inl ⟨decide_eq_true hb, h⟩
    · exact .inr ⟨decide_eq_false hb, h⟩

theorem State.Reads.unique {s : State} {w : Width} {e : EOperand} {a b : BitVec w.bits} (ha : s.Reads w e a)
    (hb : s.Reads w e b) : a = b := by
  cases e with
  | reg i => exact ha.symm.trans hb
  | mem m => exact State.Holds.unique ha hb

/-- `ReadE` of an operand that can be accessed gives its value (R112). -/
theorem State.readE_ok {s : State} {w : Width} {e : EOperand} {a : BitVec w.bits}
    (hb : s.operandBacked w e = true) (h : s.Reads w e a) :
    s.readE w e = .ok a (s.operandRecords .read w e) := by
  rcases s.readE_cases w e with ⟨-, b, hr, hh⟩ | ⟨hn, -⟩
  · rw [hr, hh.unique h]
  · rw [hb] at hn; cases hn

/-- Everything `WriteE` can do (R112). -/
theorem State.writeE_cases (s : State) (w : Width) (e : EOperand) (v : BitVec w.bits) :
    (s.operandBacked w e = true ∧ ∃ g m,
      s.writeE w e v = .ok { s with regs := g, mem := m } (s.operandRecords .write w e) ∧
      s.Puts w e v g m ∧ s.mem.Grown s.params.ramSize m) ∨
    s.operandBacked w e = false ∧ s.writeE w e v = .error .memoryRange := by
  cases e with
  | reg i => exact .inl ⟨rfl, _, _, rfl, ⟨s.regs.write_wrote w i v, rfl⟩, .refl _ _⟩
  | mem o =>
    rcases s.writeSeg_cases w (s.eaSeg o) (s.eaOff o) v with ⟨hb, m, h, hs, hg⟩ | ⟨hb, h⟩
    · exact .inl ⟨decide_eq_true hb, s.regs, m, h, ⟨rfl, hs⟩, hg⟩
    · exact .inr ⟨decide_eq_false hb, h⟩

theorem State.writeE_ok (s : State) (w : Width) (e : EOperand) (v : BitVec w.bits)
    (hb : s.operandBacked w e = true) :
    ∃ g m, s.writeE w e v = .ok { s with regs := g, mem := m } (s.operandRecords .write w e) ∧ s.Puts w e v g m := by
  rcases s.writeE_cases w e v with ⟨-, g, m, h, hp, -⟩ | ⟨hn, -⟩
  · exact ⟨g, m, h, hp⟩
  · rw [hb] at hn; cases hn

/-! What an operand is does not depend on flags, `ip`, latches other than the override, or CS. -/

theorem State.operandBacked_congr {s t : State} (hr : t.regs = s.regs) (hs : t.sregs = s.sregs)
    (hp : t.segPfx = s.segPfx) (ha : t.a20 = s.a20) (hz : t.params = s.params) (w : Width) (e : EOperand) :
    t.operandBacked w e = s.operandBacked w e := by
  cases e with
  | reg i => rfl
  | mem m =>
    refine decide_eq_decide.2 ?_
    simp only [State.segBacked, State.byteAddr, State.phys, State.gate, ha, hz, State.eaSeg_congr hs hp,
      State.eaOff_congr hr]

theorem State.Puts_congr {s t : State} (hr : t.regs = s.regs) (hs : t.sregs = s.sregs) (hp : t.segPfx = s.segPfx)
    (ha : t.a20 = s.a20) (hm : t.mem = s.mem) {w : Width} {e : EOperand} {v : BitVec w.bits} {g : Regs} {m : Memory} :
    t.Puts w e v g m ↔ s.Puts w e v g m := by
  cases e with
  | reg i => simp only [State.Puts, hr, hm]
  | mem o =>
    simp only [State.Puts, State.Stores, State.byteAddr, State.phys, State.gate, ha, hm, hr,
      State.eaSeg_congr hs hp, State.eaOff_congr hr]

@[simp] theorem State.operandBacked_setFlags (s : State) (f : Flags) (w : Width) (e : EOperand) :
    (s.setFlags f).operandBacked w e = s.operandBacked w e := State.operandBacked_congr rfl rfl rfl rfl rfl w e

@[simp] theorem State.Puts_setFlags (s : State) (f : Flags) (w : Width) (e : EOperand) (v : BitVec w.bits) (g : Regs)
    (m : Memory) : (s.setFlags f).Puts w e v g m ↔ s.Puts w e v g m := State.Puts_congr rfl rfl rfl rfl rfl

theorem State.operandRecords_congr {s t : State} (hr : t.regs = s.regs) (hs : t.sregs = s.sregs)
    (hp : t.segPfx = s.segPfx) (ha : t.a20 = s.a20) (hw : t.watch = s.watch) (k : AccessKind) (w : Width)
    (e : EOperand) : t.operandRecords k w e = s.operandRecords k w e := by
  have hb : t.byteAddr = s.byteAddr := by
    funext x y z; simp only [State.byteAddr, State.phys, State.gate, ha]
  cases e with
  | reg i => rfl
  | mem m =>
    simp only [State.operandRecords, State.segRecords, State.recordsOf, hb, hw, State.eaSeg_congr hs hp,
      State.eaOff_congr hr]

@[simp] theorem State.operandRecords_setFlags (s : State) (f : Flags) (k : AccessKind) (w : Width) (e : EOperand) :
    (s.setFlags f).operandRecords k w e = s.operandRecords k w e :=
  State.operandRecords_congr rfl rfl rfl rfl rfl k w e

/-- A far pointer in memory: the offset word, then the selector word (R108). -/
theorem State.readFarPointer_cases (s : State) (m : MemOperand) :
    (s.segBacked (s.eaSeg m) (s.eaOff m) 4 ∧ ∃ off sel,
      s.readFarPointer m = .ok (off, sel) (s.segRecords .read (s.eaSeg m) (s.eaOff m) 4) ∧
      s.Holds (s.eaSeg m) (s.eaOff m) 4 (sel ++ off)) ∨
    ¬ s.segBacked (s.eaSeg m) (s.eaOff m) 4 ∧ s.readFarPointer m = .error .memoryRange := by
  have two : ∀ k, s.byteAddr (s.eaSeg m) (s.eaOff m + 2) k = s.byteAddr (s.eaSeg m) (s.eaOff m) (2 + k) := fun k =>
    s.byteAddr_add (s.eaSeg m) (s.eaOff m) 2 k
  unfold State.readFarPointer
  rcases s.readSeg_cases .w16 (s.eaSeg m) (s.eaOff m) with ⟨b0, off, h0, v0⟩ | ⟨b0, h0⟩
  · rcases s.readSeg_cases .w16 (s.eaSeg m) (s.eaOff m + 2) with ⟨b1, sel, h1, v1⟩ | ⟨b1, h1⟩
    · refine .inl ⟨fun k hk => ?_, off, sel, ?_, fun k hk => ?_⟩
      · by_cases hk2 : k < 2
        · exact b0 k hk2
        · have := b1 (k - 2) (by change k - 2 < 2; omega)
          rwa [two, show 2 + (k - 2) = k by omega] at this
      · simp only [h0, h1, Eff.ok_bind, Eff.after_ok, List.append_nil, Width.bytes]
        rw [← s.segRecords_append .read (s.eaSeg m) (s.eaOff m) 2 2]
        rfl
      · by_cases hk2 : k < 2
        · rw [v0 k hk2]
          apply BitVec.eq_of_getLsbD_eq
          intro i hi
          simp only [byteOf, BitVec.getLsbD_extractLsb', BitVec.getLsbD_append]
          rw [if_pos (show 8 * k + i < 16 by omega)]
        · have := v1 (k - 2) (by change k - 2 < 2; omega)
          rw [two, show 2 + (k - 2) = k by omega] at this
          rw [this]
          apply BitVec.eq_of_getLsbD_eq
          intro i hi
          simp only [byteOf, BitVec.getLsbD_extractLsb', BitVec.getLsbD_append]
          rw [if_neg (show ¬ 8 * k + i < 16 by omega), show 8 * (k - 2) + i = 8 * k + i - 16 by omega]
    · refine .inr ⟨fun hb => b1 fun k hk => ?_, by
        simp only [h0, h1, Eff.ok_bind, Eff.error_bind, Eff.after_error]⟩
      rw [two]; exact hb (2 + k) (by change k < 2 at hk; omega)
  · exact .inr ⟨fun hb => b0 fun k hk => hb k (by change k < 2 at hk; omega), by simp only [h0, Eff.error_bind]⟩

/-! ### The stack (R300, R301) -/

theorem Regs.write_sp_sp (g : Regs) (u v : Half) :
    (g.write .w16 .r4 u).write .w16 .r4 v = g.write .w16 .r4 v := by
  refine Regs.Wrote.unique (w := .w16) (i := .r4) (v := v) (fun j k hk => ?_) (Regs.write_wrote _ _ _ _)
  rw [Regs.write_wrote _ _ _ _ j k hk, Regs.write_wrote _ _ _ _ j k hk]
  split <;> rfl

/-- Everything `Push` can do: SP moves down, the bytes of the value lie at the new SP (R300). -/
theorem State.push_cases (s : State) (w : Width) (v : BitVec w.bits) :
    (s.segBacked s.sregs.ss (s.sp - BitVec.ofNat 16 w.bytes) w.bytes ∧ ∃ m,
      s.push w v =
        .ok { s with regs := s.regs.write .w16 .r4 (s.sp - BitVec.ofNat 16 w.bytes), mem := m }
          (s.segRecords .write s.sregs.ss (s.sp - BitVec.ofNat 16 w.bytes) w.bytes) ∧
      s.Stores s.sregs.ss (s.sp - BitVec.ofNat 16 w.bytes) w.bytes v m ∧ s.mem.Grown s.params.ramSize m) ∨
    ¬ s.segBacked s.sregs.ss (s.sp - BitVec.ofNat 16 w.bytes) w.bytes ∧ s.push w v = .error .memoryRange :=
  (s.setSp (s.sp - BitVec.ofNat 16 w.bytes)).writeSeg_cases w s.sregs.ss (s.sp - BitVec.ofNat 16 w.bytes) v

/-- Everything `Pop` can do: the value at SP, and SP moves up (R301). -/
theorem State.pop_cases (s : State) (w : Width) :
    (s.segBacked s.sregs.ss s.sp w.bytes ∧ ∃ v,
      s.pop w = .ok (v, { s with regs := s.regs.write .w16 .r4 (s.sp + BitVec.ofNat 16 w.bytes) })
        (s.segRecords .read s.sregs.ss s.sp w.bytes) ∧
      s.Holds s.sregs.ss s.sp w.bytes v) ∨
    ¬ s.segBacked s.sregs.ss s.sp w.bytes ∧ s.pop w = .error .memoryRange := by
  rcases s.segRead_cases s.sregs.ss s.sp w.bytes with ⟨hb, h⟩ | ⟨hb, h⟩
  · refine .inl ⟨hb, (s.segValue s.sregs.ss s.sp w.bytes).setWidth w.bits, ?_, s.Holds_segValue _ _ w⟩
    unfold State.pop
    rw [show s.segRead (s.sreg .ss) s.sp w.bytes = _ from h, Eff.ok_bind, Eff.after_ok, List.append_nil]
    rfl
  · refine .inr ⟨hb, ?_⟩
    unfold State.pop
    rw [show s.segRead (s.sreg .ss) s.sp w.bytes = _ from h, Eff.error_bind]

/-! ### Taking an exception or interrupt, and returning (R520, R521, R373) -/

theorem half_roundTrip (x : BitVec (8 + 8)) : (x.setWidth 32).setWidth 16 = x := by
  apply BitVec.eq_of_getLsbD_eq
  intro i hi
  simp only [BitVec.getLsbD_setWidth, hi, decide_true, Bool.true_and, show i < 32 by omega]

theorem vectorEntry_toNat (v : Byte) : (v.setWidth 21 <<< 2 : Linear).toNat = 4 * v.toNat := by
  have := v.isLt
  simp only [BitVec.toNat_shiftLeft, BitVec.toNat_setWidth, Nat.shiftLeft_eq]
  omega

/-- Everything the entry sequence can do: three words on the stack, IF cleared, CS:ip from the vector table as it is
after the pushes, the halt ended; or a refusal of a byte that no memory backs (R520, R521, R63). -/
theorem State.interrupt_cases (s : State) (v : Byte) (ret : Half) :
    (s.segBacked s.sregs.ss (s.sp - 6) 6 ∧ 4 * v.toNat + 3 < s.params.ramSize ∧ ∃ m,
      s.interrupt v ret = .ok { s with
        regs := s.regs.write .w16 .r4 (s.sp - 6)
        mem := m
        flags := { s.flags with ifl := false }
        sregs := s.sregs.set .cs (m.read (4 * v.toNat + 3) ++ m.read (4 * v.toNat + 2))
        ip := m.read (4 * v.toNat + 1) ++ m.read (4 * v.toNat)
        halted := false } (s.entryRecords v) ∧
      s.Stores s.sregs.ss (s.sp - 6) 6 (flagsImage s.flags ++ (s.sregs.cs ++ ret)) m ∧
      s.mem.Grown s.params.ramSize m) ∨
    ¬ (s.segBacked s.sregs.ss (s.sp - 6) 6 ∧ 4 * v.toNat + 3 < s.params.ramSize) ∧
      s.interrupt v ret = .error .memoryRange := by
  have hvl := v.isLt
  have sub2 : ∀ x : Half, x - 2 - 2 = x - 4 := fun x => by bv_omega
  have sub4 : ∀ x : Half, x - 4 - 2 = x - 6 := fun x => by bv_omega
  have e4 : s.sp - 2 = s.sp - 6 + BitVec.ofNat 16 4 := by bv_omega
  have e2 : s.sp - 4 = s.sp - 6 + BitVec.ofNat 16 2 := by bv_omega
  unfold State.interrupt
  rcases s.push_cases .w16 (flagsImage s.flags) with ⟨b1, m1, h1, st1, g1⟩ | ⟨b1, h1⟩
  · rw [h1]
    simp only [Eff.ok_bind, State.setFlags]
    generalize hs2 : ({ s with
      regs := s.regs.write .w16 .r4 (s.sp - BitVec.ofNat 16 Width.w16.bytes)
      mem := m1
      flags := { s.flags with ifl := false } } : State) = s2
    have p2 : s2.sp = s.sp - 2 := by
      subst hs2; exact (State.sp_eq _).trans (Regs.view_write_same _ _ _ _)
    have q2 : s2.sregs = s.sregs := by subst hs2; rfl
    have r2 : s2.sp - BitVec.ofNat 16 Width.w16.bytes = s.sp - 4 := by rw [p2]; exact sub2 _
    rcases s2.push_cases .w16 (s2.sreg .cs) with ⟨b2, m2, h2, st2, g2⟩ | ⟨b2, h2⟩ <;> rw [r2, q2] at b2
    · rw [h2]
      rw [r2, q2] at st2
      simp only [Eff.ok_bind, r2]
      generalize hs3 : ({ s2 with regs := s2.regs.write .w16 .r4 (s.sp - 4), mem := m2 } : State) = s3
      have p3 : s3.sp = s.sp - 4 := by
        subst hs3; exact (State.sp_eq _).trans (Regs.view_write_same _ _ _ _)
      have q3 : s3.sregs = s.sregs := by subst hs3; exact q2
      have r3 : s3.sp - BitVec.ofNat 16 Width.w16.bytes = s.sp - 6 := by rw [p3]; exact sub4 _
      rcases s3.push_cases .w16 ret with ⟨b3, m3, h3, st3, g3⟩ | ⟨b3, h3⟩ <;> rw [r3, q3] at b3
      · rw [h3]
        rw [r3, q3] at st3
        simp only [Eff.ok_bind, r3]
        generalize hs4 : ({ s3 with regs := s3.regs.write .w16 .r4 (s.sp - 6), mem := m3 } : State) = s4
        have m4 : s4.mem = m3 := by subst hs4; rfl
        have z4 : s4.params = s.params := by subst hs4 hs3 hs2; rfl
        have a0 : (v.setWidth 21 <<< 2 : Linear).toNat = 4 * v.toNat := vectorEntry_toNat v
        have a2 : (v.setWidth 21 <<< 2 + 2 : Linear).toNat = 4 * v.toNat + 2 := by
          rw [BitVec.toNat_add, a0]; simp; omega
        have hb : s.segBacked s.sregs.ss (s.sp - 6) 6 := fun k hk => by
          by_cases k2 : k < 2
          · have := b3 k k2; subst hs3 hs2; exact this
          · by_cases k4 : k < 4
            · have := b2 (k - 2) (by change k - 2 < 2; omega)
              rw [e2, State.byteAddr_add, show 2 + (k - 2) = k by omega] at this
              subst hs2; exact this
            · have := b1 (k - 4) (by change k - 4 < 2; omega)
              change s.byteAddr _ (s.sp - 2) _ < _ at this
              rw [e4, State.byteAddr_add, show 4 + (k - 4) = k by omega] at this
              exact this
        have hst : s.Stores s.sregs.ss (s.sp - 6) 6 (flagsImage s.flags ++ (s.sregs.cs ++ ret)) m3 := by
          refine State.Stores.append (j := 4) (n := 2) (b := 32) (m := m1) (by omega) rfl ?_ ?_
          · rw [← e4]; exact st1
          · refine State.Stores.append (j := 2) (n := 2) (b := 16) (m := m2) (by omega) rfl ?_ ?_
            · rw [← e2]; subst hs2; exact st2
            · subst hs3 hs2; exact st3
        have hg : s.mem.Grown s.params.ramSize m3 := by
          subst hs3 hs2; exact (g1.trans g2).trans g3
        rw [State.memRead_two s4 _ (by rw [a0]; omega), State.memRead_two s4 _ (by rw [a2]; omega), a0, a2, m4, z4]
        by_cases hr : 4 * v.toNat + 3 < s.params.ramSize
        · refine .inl ⟨hb, hr, m3, ?_, hst, hg⟩
          rw [if_pos (by omega), if_pos (by omega)]
          have e : s4 = { s with
              regs := s.regs.write .w16 .r4 (s.sp - 6)
              mem := m3
              flags := { s.flags with ifl := false } } := by
            subst hs4 hs3 hs2
            simp only [Regs.write_sp_sp]
          simp only [Eff.ok_bind, Eff.after_ok, List.append_nil, half_roundTrip]
          have r4 : ∀ l, s4.recordsOf .read l = s.recordsOf .read l := fun l => by subst hs4 hs3 hs2; rfl
          rw [r4, r4, ← State.recordsOf_append, e]
          subst hs3 hs2
          rfl
        · refine .inr ⟨fun h => hr h.2, ?_⟩
          rw [if_neg (show ¬ 4 * v.toNat + 2 + 1 < s.params.ramSize by omega)]
          split <;> rfl
      · refine .inr ⟨fun h => b3 fun k hk => ?_, by rw [h3]; rfl⟩
        have := h.1 k (by change k < 2 at hk; omega)
        subst hs3 hs2; exact this
    · refine .inr ⟨fun h => b2 fun k hk => ?_, by rw [h2]; rfl⟩
      have := h.1 (2 + k) (by change k < 2 at hk; omega)
      rw [← State.byteAddr_add, ← e2] at this
      subst hs2; exact this
  · refine .inr ⟨fun h => b1 fun k hk => ?_, by rw [h1, Eff.error_bind]⟩
    have := h.1 (4 + k) (by change k < 2 at hk; omega)
    rw [← State.byteAddr_add, ← e4] at this
    exact this

/-- Values at consecutive offsets are one value (R66, R68). -/
theorem State.Holds.append {s : State} {sel off : Half} {j n b c : Nat} {lo : BitVec b} {hi : BitVec c}
    (hb : b = 8 * j) (hlo : s.Holds sel off j lo) (hhi : s.Holds sel (off + BitVec.ofNat 16 j) n hi) :
    s.Holds sel off (j + n) (hi ++ lo) := by
  subst hb
  intro k hk
  by_cases hkj : k < j
  · rw [hlo k hkj]
    apply BitVec.eq_of_getLsbD_eq
    intro i hi'
    simp only [byteOf, BitVec.getLsbD_extractLsb', BitVec.getLsbD_append]
    rw [if_pos (by omega)]
  · have := hhi (k - j) (by omega)
    rw [State.byteAddr_add, show j + (k - j) = k by omega] at this
    rw [this]
    apply BitVec.eq_of_getLsbD_eq
    intro i hi'
    simp only [byteOf, BitVec.getLsbD_extractLsb', BitVec.getLsbD_append]
    rw [if_neg (by omega), show 8 * (k - j) + i = 8 * k + i - 8 * j by omega]

theorem State.segBacked_split (s : State) (sel off : Half) (j n : Nat) :
    s.segBacked sel off (j + n) ↔ s.segBacked sel off j ∧ s.segBacked sel (off + BitVec.ofNat 16 j) n := by
  constructor
  · exact fun h => ⟨fun k hk => h k (by omega), fun k hk => by rw [State.byteAddr_add]; exact h _ (by omega)⟩
  · rintro ⟨h, h'⟩ k hk
    by_cases hkj : k < j
    · exact h k hkj
    · have := h' (k - j) (by omega)
      rwa [State.byteAddr_add, show j + (k - j) = k by omega] at this

/-- Everything two pops of a word can do: a far return's offset and selector (R301, R362). -/
theorem State.popTwo_cases (s : State) :
    (s.segBacked s.sregs.ss s.sp 4 ∧ ∃ off sel : Half,
      s.pop .w16 = .ok (off, { s with regs := s.regs.write .w16 .r4 (s.sp + 2) })
        (s.segRecords .read s.sregs.ss s.sp 2) ∧
      ({ s with regs := s.regs.write .w16 .r4 (s.sp + 2) } : State).pop .w16 =
        .ok (sel, { s with regs := s.regs.write .w16 .r4 (s.sp + 4) })
          (s.segRecords .read s.sregs.ss (s.sp + 2) 2) ∧
      s.Holds s.sregs.ss s.sp 4 (sel ++ off)) ∨
    ¬ s.segBacked s.sregs.ss s.sp 4 ∧ ((s.pop .w16).bind fun vs => vs.2.pop .w16) = .error .memoryRange := by
  rcases s.pop_cases .w16 with ⟨b1, off, h1, v1⟩ | ⟨b1, h1⟩
  · generalize ht : ({ s with regs := s.regs.write .w16 .r4 (s.sp + BitVec.ofNat 16 Width.w16.bytes) } : State) = t
      at h1
    have pt : t.sp = s.sp + 2 := by subst ht; exact (State.sp_eq _).trans (Regs.view_write_same _ _ _ _)
    have add2 : ∀ x : Half, x + 2 + 2 = x + 4 := fun x => by bv_omega
    rcases t.pop_cases .w16 with ⟨b2, sel, h2, v2⟩ | ⟨b2, h2⟩ <;> rw [pt] at b2
    · rw [pt] at h2 v2
      refine .inl ⟨(s.segBacked_split _ _ 2 2).2 ⟨b1, by subst ht; exact b2⟩, off, sel, by subst ht; exact h1, ?_,
        State.Holds.append rfl v1 (by subst ht; exact v2)⟩
      subst ht
      refine h2.trans ?_
      rw [Regs.write_sp_sp]
      change Eff.ok (sel, { s with regs := s.regs.write .w16 .r4 (s.sp + 2 + 2) }) _ = _
      rw [add2]
      rfl
    · refine .inr ⟨fun h => b2 ?_, by rw [h1, Eff.ok_bind]; simp only [h2, Eff.after_error]⟩
      have := ((s.segBacked_split _ _ 2 2).1 h).2
      subst ht; exact this
  · exact .inr ⟨fun h => b1 ((s.segBacked_split _ _ 2 2).1 h).1, by rw [h1]; rfl⟩

/-- Everything the return from an interrupt can do: three words popped into ip, CS and the flags; an image with bit 8
or bit 10 set is refused (R373, U7), and so is a byte that no memory backs. -/
theorem State.interruptReturn_cases (s : State) :
    (s.segBacked s.sregs.ss s.sp 6 ∧ ∃ off sel image : Half, s.Holds s.sregs.ss s.sp 6 (image ++ (sel ++ off)) ∧
      s.interruptReturn =
        if unsupportedImage image then .error .unsupportedFlagBit
        else .ok { s with
          regs := s.regs.write .w16 .r4 (s.sp + 6)
          sregs := s.sregs.set .cs sel
          ip := off
          flags := flagsOfImage image } (s.segRecords .read s.sregs.ss s.sp 6)) ∨
    ¬ s.segBacked s.sregs.ss s.sp 6 ∧ s.interruptReturn = .error .memoryRange := by
  rcases s.popTwo_cases with ⟨b1, off, sel, h1, h2, v1⟩ | ⟨b1, h1⟩
  · generalize ht : ({ s with regs := s.regs.write .w16 .r4 (s.sp + 4) } : State) = t at h2
    have pt : t.sp = s.sp + 4 := by subst ht; exact (State.sp_eq _).trans (Regs.view_write_same _ _ _ _)
    have add2 : ∀ x : Half, x + 4 + 2 = x + 6 := fun x => by bv_omega
    rcases t.pop_cases .w16 with ⟨b3, image, h3, v3⟩ | ⟨b3, h3⟩ <;> rw [pt] at b3
    · rw [pt] at h3 v3
      refine .inl ⟨(s.segBacked_split _ _ 4 2).2 ⟨b1, by subst ht; exact b3⟩, off, sel, image,
        State.Holds.append rfl v1 (by subst ht; exact v3), ?_⟩
      have h3' : t.pop .w16 = .ok (image, { s with regs := s.regs.write .w16 .r4 (s.sp + 6) })
          (s.segRecords .read s.sregs.ss (s.sp + 4) 2) := by
        refine h3.trans ?_
        subst ht
        rw [Regs.write_sp_sp]
        change Eff.ok (image, { s with regs := s.regs.write .w16 .r4 (s.sp + 4 + 2) }) _ = _
        rw [add2]
        rfl
      unfold State.interruptReturn
      simp only [h1, h2, h3', Eff.ok_bind]
      unfold State.loadFlags
      rw [← s.segRecords_append .read _ _ 4 2, ← s.segRecords_append .read _ _ 2 2]
      split
      · rfl
      · simp only [Eff.after_ok, List.append_nil, List.append_assoc]
        rfl
    · refine .inr ⟨fun h => b3 ?_, ?_⟩
      · have := ((s.segBacked_split _ _ 4 2).1 h).2
        subst ht; exact this
      · unfold State.interruptReturn
        simp only [h1, h2, h3, Eff.ok_bind, Eff.error_bind, Eff.after_error]
  · refine .inr ⟨fun h => b1 ((s.segBacked_split _ _ 4 2).1 h).1, ?_⟩
    unfold State.interruptReturn
    rcases s.pop_cases .w16 with ⟨-, v, h, -⟩ | ⟨-, h⟩
    · rw [h, Eff.ok_bind] at h1
      rw [h]
      simp only [Eff.ok_bind]
      cases hp : ({ s with regs := s.regs.write .w16 .r4 (s.sp + BitVec.ofNat 16 Width.w16.bytes) } : State).pop .w16 with
      | ok vt l => rw [hp] at h1; cases h1
      | error r => rw [hp] at h1; cases h1; rfl
    · rw [h, Eff.error_bind]

end Sys2Proof.Machine
end

