-- ==== Sys2Proof/Laws/Exec.lean ====
section
/-! SUPPORT. Once for all instructions: the parts of the state that an instruction of each kind can change, and when
exec stops (`exec_does`). -/

namespace Sys2Proof.Machine

/-- What an instruction can change. -/
inductive Kind where
  /-- general registers and memory -/
  | data
  /-- general registers, memory and status flags -/
  | arith
  /-- general registers and one segment register -/
  | sreg (i : SReg)
  /-- general registers, memory and ip -/
  | near
  /-- general registers, memory, ip and CS -/
  | far
  /-- the entry of an interrupt, or nothing -/
  | entry
  /-- what `arith` changes, or the entry of the divide error -/
  | divide
  /-- general registers, CS, ip and flags, from a flag image that can be refused -/
  | image
  /-- IF -/
  | ifl
  /-- the halt latch -/
  | halt
  /-- the prefix latches -/
  | latch
  /-- general registers and what a device can change -/
  | port
deriving DecidableEq, Repr

/-- The entry of an interrupt was taken, as far as which parts of the state changed. -/
def State.Entered (s t : State) : Prop :=
  ∃ g m cs ip, t = { s with
    regs := g
    mem := m
    flags := { s.flags with ifl := false }
    sregs := s.sregs.set .cs cs
    ip := ip
    halted := false } ∧ s.mem.Grown s.params.ramSize m

/-- Registers, memory and status flags changed and no other part of the state. -/
def State.Computed (s t : State) : Prop :=
  ∃ g m f, t = { s with regs := g, mem := m, flags := f } ∧ f.ifl = s.flags.ifl ∧ s.mem.Grown s.params.ramSize m

/-- The next state of an instruction of a kind. -/
def Kind.Next (s t : State) : Kind → Prop
  | .data => ∃ g m, t = { s with regs := g, mem := m } ∧ s.mem.Grown s.params.ramSize m
  | .arith => s.Computed t
  | .sreg i => ∃ g v, t = { s with regs := g, sregs := s.sregs.set i v }
  | .near => ∃ g m ip, t = { s with regs := g, mem := m, ip := ip } ∧ s.mem.Grown s.params.ramSize m
  | .far => ∃ g m ip cs, t = { s with regs := g, mem := m, ip := ip, sregs := s.sregs.set .cs cs } ∧
      s.mem.Grown s.params.ramSize m
  | .entry => t = s ∨ s.Entered t
  | .divide => s.Computed t ∨ s.Entered t
  | .image => ∃ g ip cs f, t = { s with regs := g, ip := ip, sregs := s.sregs.set .cs cs, flags := f }
  | .ifl => ∃ b, t = { s with flags := { s.flags with ifl := b } }
  | .halt => t = { s with halted := true }
  | .latch => ∃ b o, t = { s with opsizePfx := b, segPfx := o }
  | .port => ∃ u g, s.DeviceFrame u ∧ (s.pendingOk → u.pendingOk) ∧ t = { u with regs := g }

/-- A refusal that an instruction of a kind can end in: of a byte that no memory backs, or of a flag image. -/
def Kind.Refuses (s : State) (k : Kind) (r : Refusal) : Prop := ¬ s.fullRam ∨ k = .image ∧ r = .unsupportedFlagBit

/-- What a computation of a kind gives: a next state with trace records of accesses at the watch address, or a
refusal. -/
def Kind.EffOut (s : State) (k : Kind) : Eff State → Prop
  | .ok t l => k.Next s t ∧ s.Flagged l
  | .error r => k.Refuses s r

/-- The outcome of an instruction of a kind: a next state, with trace records of accesses at the watch address, or a
refusal; never a fault. -/
def Kind.Out (s : State) (k : Kind) : Outcome → Prop
  | .next t => k.Next s { t with trace := s.trace } ∧ ∃ l, t.trace = s.trace ++ l ∧ s.Flagged l
  | .fault _ => False
  | .refused r => k.Refuses s r

/-- The kind of each instruction. -/
def kindOf : Instr → Kind
  | .pushEs | .pushCs | .pushSs | .pushDs | .pushR _ | .popR _ | .pushIv _ | .pushIbs _ | .popEv _ | .pushf
  | .pushEv _ => .data
  | .popEs | .movEsEw _ => .sreg .es
  | .popSs | .movSsEw _ => .sreg .ss
  | .popDs | .movDsEw _ => .sreg .ds
  | .movEbGb _ _ | .movEvGv _ _ | .movGbEb _ _ | .movGvEv _ _ | .movEwSw _ _ | .movAlOb _ | .movEaxOv _ | .movObAl _
  | .movOvEax _ | .movR8Ib _ _ | .movRIv _ _ | .movEbIb _ _ | .movEvIv _ _ => .data
  | .xchgEbGb _ _ | .xchgEvGv _ _ | .xchgEaxEcx | .xchgEaxEdx | .xchgEaxEbx | .xchgEaxEsp | .xchgEaxEbp | .xchgEaxEsi
  | .xchgEaxEdi | .leaGvM _ _ | .xlat | .cbw | .cwd | .lahf | .nop | .notEb _ | .notEv _ => .data
  | .prefixEs | .prefixCs | .prefixSs | .prefixDs | .prefixOpsize => .latch
  | .jo _ | .jno _ | .jb _ | .jae _ | .je _ | .jne _ | .jbe _ | .ja _ | .js _ | .jns _ | .jp _ | .jnp _ | .jl _
  | .jge _ | .jle _ | .jg _ | .jcxz _ | .loop _ | .loope _ | .loopne _ | .jmpJb _ | .jmpJv _ | .jmpEv _ | .callJv _
  | .callEv _ | .ret | .retIw _ => .near
  | .jmpAp _ _ | .jmpMp _ | .callAp _ _ | .callMp _ | .retf | .retfIw _ => .far
  | .int3 | .intIb _ | .into => .entry
  | .divEb _ | .divEv _ | .idivEb _ | .idivEv _ => .divide
  | .popf | .iret => .image
  | .cli | .sti => .ifl
  | .hlt => .halt
  | .inAlIb _ | .inEaxIb _ | .inAlDx | .inEaxDx | .outIbAl _ | .outIbEax _ | .outDxAl | .outDxEax => .port
  | _ => .arith

/-! ### The shared operations -/

/-- The changes of a kind leave the trace to the records of the accesses. -/
theorem Kind.Next.trace {s t : State} {k : Kind} (h : k.Next s t) : t.trace = s.trace := by
  cases k with
  | data => obtain ⟨_, _, rfl, -⟩ := h; rfl
  | arith => obtain ⟨_, _, _, rfl, -⟩ := h; rfl
  | sreg i => obtain ⟨_, _, rfl⟩ := h; rfl
  | near => obtain ⟨_, _, _, rfl, -⟩ := h; rfl
  | far => obtain ⟨_, _, _, _, rfl, -⟩ := h; rfl
  | entry =>
    rcases h with rfl | ⟨_, _, _, _, rfl, -⟩
    · rfl
    · rfl
  | divide => rcases h with ⟨_, _, _, rfl, -⟩ | ⟨_, _, _, _, rfl, -⟩ <;> rfl
  | image => obtain ⟨_, _, _, _, rfl⟩ := h; rfl
  | ifl => obtain ⟨_, rfl⟩ := h; rfl
  | halt => rw [show t = _ from h]
  | latch => obtain ⟨_, _, rfl⟩ := h; rfl
  | port => obtain ⟨u, _, hu, -, rfl⟩ := h; exact hu.fields.trace

theorem Kind.out_next {s t : State} {k : Kind} (h : k.Next s t) : k.Out s (.next t) := by
  have ht := h.trace
  refine ⟨?_, [], by rw [ht, List.append_nil], s.flagged_nil⟩
  rw [← ht]
  exact h

theorem Kind.out_ofEff {s : State} {k : Kind} {x : Eff State} (h : k.EffOut s x) : k.Out s (ofEff x) := by
  cases x with
  | error r => exact h
  | ok t l =>
    have ht := h.1.trace
    refine ⟨?_, l, by rw [← ht]; rfl, h.2⟩
    have : ({ t.emit l with trace := s.trace } : State) = t := by rw [← ht]; rfl
    rw [this]
    exact h.1

/-- A computation that is refused only for a byte that no memory backs, and traces accesses at the watch address only. -/
def State.Bounded (s : State) {α : Type} : Eff α → Prop
  | .ok _ l => s.Flagged l
  | .error _ => ¬ s.fullRam

theorem Kind.eff_after {s : State} {k : Kind} {x : Eff State} {l : List TraceRecord} (hl : s.Flagged l)
    (h : k.EffOut s x) : k.EffOut s (x.after l) := by
  cases x with
  | error r => exact h
  | ok t l' => exact ⟨h.1, hl.append h.2⟩

theorem Kind.eff_bind {s : State} {k : Kind} {α : Type} {x : Eff α} {f : α → Eff State} (hx : s.Bounded x)
    (hf : ∀ a l, x = .ok a l → k.EffOut s (f a)) : k.EffOut s (x.bind f) := by
  cases x with
  | error r => exact .inl hx
  | ok a l => exact Kind.eff_after hx (hf a l rfl)

theorem State.bounded_ok (s : State) {α : Type} (a : α) : s.Bounded (.ok a []) := s.flagged_nil

theorem State.operandRecords_flagged (s : State) (k : AccessKind) (w : Width) (e : EOperand) :
    s.Flagged (s.operandRecords k w e) := by
  cases e with
  | reg i => exact s.flagged_nil
  | mem m => exact s.segRecords_flagged _ _ _ _

theorem State.entryRecords_flagged (s : State) (v : Byte) : s.Flagged (s.entryRecords v) :=
  (s.segRecords_flagged _ _ _ _).append ((s.segRecords_flagged _ _ _ _).append
    ((s.segRecords_flagged _ _ _ _).append (s.recordsOf_flagged _ _)))

theorem State.bounded_readE (s : State) (w : Width) (e : EOperand) : s.Bounded (s.readE w e) := by
  rcases s.readE_cases w e with ⟨-, a, h, -⟩ | ⟨h', h⟩ <;> rw [h]
  · exact s.operandRecords_flagged _ w e
  · intro hf; rw [hf.operandBacked] at h'; cases h'

theorem State.bounded_readSeg (s : State) (w : Width) (sel off : Half) : s.Bounded (s.readSeg w sel off) := by
  rcases s.readSeg_cases w sel off with ⟨-, a, h, -⟩ | ⟨h', h⟩ <;> rw [h]
  · exact s.segRecords_flagged _ _ _ _
  · exact fun hf => h' (hf.segBacked _ _ _)

theorem State.bounded_readFarPointer (s : State) (m : MemOperand) : s.Bounded (s.readFarPointer m) := by
  rcases s.readFarPointer_cases m with ⟨-, a, b, h, -⟩ | ⟨h', h⟩ <;> rw [h]
  · exact s.segRecords_flagged _ _ _ _
  · exact fun hf => h' (hf.segBacked _ _ _)

theorem State.bounded_writeE (s : State) (w : Width) (e : EOperand) (v : BitVec w.bits) :
    s.Bounded (s.writeE w e v) := by
  rcases s.writeE_cases w e v with ⟨-, g, m, h, -⟩ | ⟨h', h⟩ <;> rw [h]
  · exact s.operandRecords_flagged _ w e
  · intro hf; rw [hf.operandBacked] at h'; cases h'

theorem State.bounded_push (s : State) (w : Width) (v : BitVec w.bits) : s.Bounded (s.push w v) := by
  rcases s.push_cases w v with ⟨-, m, h, -⟩ | ⟨h', h⟩ <;> rw [h]
  · exact s.segRecords_flagged _ _ _ _
  · exact fun hf => h' (hf.segBacked _ _ _)

theorem State.bounded_pop (s : State) (w : Width) : s.Bounded (s.pop w) := by
  rcases s.pop_cases w with ⟨-, v, h, -⟩ | ⟨h', h⟩ <;> rw [h]
  · exact s.segRecords_flagged _ _ _ _
  · exact fun hf => h' (hf.segBacked _ _ _)

/-- What a write of an operand changes. -/
theorem State.writeE_next {s t : State} {w : Width} {e : EOperand} {v : BitVec w.bits} {l : List TraceRecord}
    (h : s.writeE w e v = .ok t l) :
    ∃ g m, t = { s with regs := g, mem := m } ∧ s.mem.Grown s.params.ramSize m := by
  rcases s.writeE_cases w e v with ⟨-, g, m, h', -, hg⟩ | ⟨-, h'⟩ <;> rw [h'] at h <;> cases h
  exact ⟨g, m, rfl, hg⟩

theorem State.push_next {s t : State} {w : Width} {v : BitVec w.bits} {l : List TraceRecord}
    (h : s.push w v = .ok t l) : ∃ g m, t = { s with regs := g, mem := m } ∧ s.mem.Grown s.params.ramSize m := by
  rcases s.push_cases w v with ⟨-, m, h', -, hg⟩ | ⟨-, h'⟩ <;> rw [h'] at h <;> cases h
  exact ⟨_, m, rfl, hg⟩

theorem State.pop_next {s : State} {w : Width} {vt : BitVec w.bits × State} {l : List TraceRecord}
    (h : s.pop w = .ok vt l) : ∃ g, vt.2 = { s with regs := g } := by
  rcases s.pop_cases w with ⟨-, v, h', -⟩ | ⟨-, h'⟩ <;> rw [h'] at h <;> cases h
  exact ⟨_, rfl⟩

/-- A computation that ends with a bounded one. -/
theorem Kind.eff_of_bounded {s : State} {k : Kind} {x : Eff State} (hx : s.Bounded x)
    (h : ∀ t l, x = .ok t l → k.Next s t) : k.EffOut s x := by
  cases x with
  | error r => exact .inl hx
  | ok t l => exact ⟨h t l rfl, hx⟩

theorem Kind.eff_ok {s t : State} {k : Kind} (h : k.Next s t) : k.EffOut s (.ok t []) := ⟨h, s.flagged_nil⟩

theorem Kind.eff_writeE (s : State) (w : Width) (e : EOperand) (v : BitVec w.bits) :
    Kind.data.EffOut s (s.writeE w e v) :=
  Kind.eff_of_bounded (s.bounded_writeE w e v) fun _ _ h => State.writeE_next h

theorem Kind.eff_setFlags_writeE (s : State) (f : Flags) (hf : f.ifl = s.flags.ifl) (w : Width) (e : EOperand)
    (v : BitVec w.bits) : Kind.arith.EffOut s ((s.setFlags f).writeE w e v) := by
  refine Kind.eff_of_bounded ((s.setFlags f).bounded_writeE w e v) fun t l h => ?_
  obtain ⟨g, m, rfl, hg⟩ := State.writeE_next h
  exact ⟨g, m, f, rfl, hf, hg⟩

theorem Kind.next_setFlags (s : State) (f : Flags) (hf : f.ifl = s.flags.ifl) : Kind.arith.Next s (s.setFlags f) :=
  ⟨s.regs, s.mem, f, rfl, hf, .refl _ _⟩

theorem Kind.eff_aluOnE (op : AluOp) (w : Width) (e : EOperand) (b : BitVec w.bits) (s : State) :
    Kind.arith.EffOut s (aluOnE op w e b s) := by
  refine Kind.eff_bind (s.bounded_readE w e) fun a _ _ => ?_
  dsimp only
  split
  · exact Kind.eff_ok (Kind.next_setFlags s _ (aluResult_ifl op a b _))
  · exact Kind.eff_setFlags_writeE s _ (aluResult_ifl op a b _) w e _

theorem Kind.out_aluGE (op : AluOp) (w : Width) (g : RegNum) (e : EOperand) (s : State) :
    Kind.arith.Out s (aluGE op w g e s) :=
  Kind.out_ofEff (Kind.eff_bind (s.bounded_readE w e) fun b _ _ => Kind.eff_aluOnE op w _ b s)

theorem Kind.out_testE (w : Width) (e : EOperand) (b : BitVec w.bits) (s : State) : Kind.arith.Out s (testE w e b s) :=
  Kind.out_ofEff (Kind.eff_bind (s.bounded_readE w e) fun _ _ _ => Kind.eff_ok (Kind.next_setFlags s _ rfl))

theorem Kind.out_unaryE (w : Width) (f : BitVec w.bits → Flags → BitVec w.bits × Flags)
    (hf : ∀ a g, (f a g).2.ifl = g.ifl) (e : EOperand) (s : State) : Kind.arith.Out s (unaryE w f e s) :=
  Kind.out_ofEff (Kind.eff_bind (s.bounded_readE w e) fun a _ _ => Kind.eff_setFlags_writeE s _ (hf a _) w e _)

theorem Kind.out_notE (w : Width) (e : EOperand) (s : State) : Kind.data.Out s (notE w e s) :=
  Kind.out_ofEff (Kind.eff_bind (s.bounded_readE w e) fun _ _ _ => Kind.eff_writeE s w e _)

theorem Kind.out_mulE (w : Width) (e : EOperand) (s : State) : Kind.arith.Out s (mulE w e s) :=
  Kind.out_ofEff (Kind.eff_bind (s.bounded_readE w e) fun _ _ _ => Kind.eff_ok ⟨_, s.mem, _, rfl, rfl, .refl _ _⟩)

theorem Kind.out_imulE (w : Width) (e : EOperand) (s : State) : Kind.arith.Out s (imulE w e s) :=
  Kind.out_ofEff (Kind.eff_bind (s.bounded_readE w e) fun _ _ _ => Kind.eff_ok ⟨_, s.mem, _, rfl, rfl, .refl _ _⟩)

theorem Kind.out_shiftE (op : ShiftOp) (w : Width) (e : EOperand) (c : Byte) (s : State) :
    Kind.arith.Out s (shiftE op w e c s) := by
  refine Kind.out_ofEff (Kind.eff_bind (s.bounded_readE w e) fun a _ _ => ?_)
  dsimp only
  split
  · exact Kind.eff_ok (Kind.next_setFlags s s.flags rfl)
  · exact Kind.eff_setFlags_writeE s _ (shiftResult_ifl op w a _ _) w e _

theorem State.interrupt_out (s : State) (v : Byte) (ret : Half) :
    (∃ t, s.interrupt v ret = .ok t (s.entryRecords v) ∧ s.Entered t) ∨
      ∃ r, s.interrupt v ret = .error r ∧ ¬ s.fullRam := by
  rcases s.interrupt_cases v ret with ⟨-, -, m, h, -, hg⟩ | ⟨hn, h⟩
  · exact .inl ⟨_, h, _, m, _, _, rfl, hg⟩
  · refine .inr ⟨_, h, fun hf => hn ⟨hf.segBacked _ _ _, ?_⟩⟩
    have := v.isLt
    unfold State.fullRam at hf
    omega

theorem Kind.eff_interrupt (s : State) (v : Byte) (ret : Half) : Kind.entry.EffOut s (s.interrupt v ret) := by
  rcases s.interrupt_out v ret with ⟨t, h, he⟩ | ⟨r, h, hn⟩ <;> rw [h]
  · exact ⟨.inr he, s.entryRecords_flagged v⟩
  · exact .inl hn

theorem Kind.eff_divideError (s : State) : Kind.divide.EffOut s (divideError s) := by
  unfold divideError
  rcases s.interrupt_out 0 s.ipStart with ⟨t, h, he⟩ | ⟨r, h, hn⟩ <;> rw [h]
  · exact ⟨.inr he, s.entryRecords_flagged 0⟩
  · exact .inl hn

theorem Kind.out_divE (w : Width) (e : EOperand) (s : State) : Kind.divide.Out s (divE w e s) := by
  refine Kind.out_ofEff (Kind.eff_bind (s.bounded_readE w e) fun d _ _ => ?_)
  dsimp only
  split
  · exact Kind.eff_divideError s
  · exact Kind.eff_ok (.inl ⟨_, s.mem, _, rfl, rfl, .refl _ _⟩)

theorem Kind.out_idivE (w : Width) (e : EOperand) (s : State) : Kind.divide.Out s (idivE w e s) := by
  refine Kind.out_ofEff (Kind.eff_bind (s.bounded_readE w e) fun d _ _ => ?_)
  dsimp only
  split
  · exact Kind.eff_divideError s
  · exact Kind.eff_ok (.inl ⟨_, s.mem, _, rfl, rfl, .refl _ _⟩)

theorem Kind.eff_loadReg {s : State} {w : Width} {x : Eff (BitVec w.bits)} (i : RegNum) (hx : s.Bounded x) :
    Kind.data.EffOut s (loadReg w i x s) :=
  Kind.eff_bind hx fun _ _ _ => Kind.eff_ok ⟨_, s.mem, rfl, .refl _ _⟩

theorem Kind.eff_loadSreg {s : State} {x : Eff (BitVec Width.w16.bits)} (i : SReg) (hx : s.Bounded x) :
    (Kind.sreg i).EffOut s (loadSreg i x s) :=
  Kind.eff_bind hx fun v _ _ => Kind.eff_ok ⟨s.regs, v, rfl⟩

theorem Kind.eff_writeSeg (s : State) (w : Width) (sel off : Half) (v : BitVec w.bits) :
    Kind.data.EffOut s (s.writeSeg w sel off v) := by
  rcases s.writeSeg_cases w sel off v with ⟨-, m, h, -, hg⟩ | ⟨hn, h⟩ <;> rw [h]
  · exact ⟨⟨s.regs, m, rfl, hg⟩, s.segRecords_flagged _ _ _ _⟩
  · exact .inl fun hf => hn (hf.segBacked _ _ _)

theorem Kind.next_writeReg (s : State) (w : Width) (i : RegNum) (v : BitVec w.bits) :
    Kind.data.Next s (s.writeReg w i v) := ⟨_, s.mem, rfl, .refl _ _⟩

theorem Kind.eff_xchgEG (w : Width) (e : EOperand) (g : RegNum) (s : State) :
    Kind.data.EffOut s (xchgEG w e g s) := by
  refine Kind.eff_bind (s.bounded_readE w e) fun a _ _ => Kind.eff_bind (s.bounded_writeE w e _) fun t _ h => ?_
  obtain ⟨g', m, rfl, hg⟩ := State.writeE_next h
  exact Kind.eff_ok ⟨_, m, rfl, hg⟩

theorem Kind.next_xchgAcc (i : RegNum) (s : State) : Kind.data.Next s (xchgAcc i s) :=
  ⟨_, s.mem, rfl, .refl _ _⟩

theorem Kind.next_signExtendAcc (s : State) : Kind.data.Next s (signExtendAcc s) := by
  unfold signExtendAcc
  split <;> exact ⟨_, s.mem, rfl, .refl _ _⟩

theorem Kind.eff_push (s : State) (w : Width) (v : BitVec w.bits) : Kind.data.EffOut s (s.push w v) :=
  Kind.eff_of_bounded (s.bounded_push w v) fun _ _ h => State.push_next h

theorem Kind.eff_pushE (w : Width) (e : EOperand) (s : State) : Kind.data.EffOut s (pushE w e s) :=
  Kind.eff_bind (s.bounded_readE w e) fun v _ _ => Kind.eff_push s w v

theorem Kind.eff_popE (w : Width) (e : EOperand) (s : State) : Kind.data.EffOut s (popE w e s) := by
  refine Kind.eff_bind (s.bounded_pop w) fun vt _ h => ?_
  obtain ⟨g, hg⟩ := State.pop_next h
  rw [hg]
  exact Kind.eff_writeE { s with regs := g } w e vt.1

theorem Kind.eff_popSreg (i : SReg) (s : State) : (Kind.sreg i).EffOut s (popSreg i s) := by
  refine Kind.eff_bind (s.bounded_pop .w16) fun vt _ h => ?_
  obtain ⟨g, hg⟩ := State.pop_next h
  rw [hg]
  exact Kind.eff_ok ⟨g, vt.1, rfl⟩

theorem Kind.eff_popFlags (s : State) : Kind.image.EffOut s (popFlags s) := by
  refine Kind.eff_bind (s.bounded_pop .w16) fun vt _ h => ?_
  obtain ⟨g, hg⟩ := State.pop_next h
  rw [hg]
  unfold State.loadFlags
  split
  · exact .inr ⟨rfl, rfl⟩
  · exact Kind.eff_ok ⟨g, s.ip, s.sregs.cs, _, rfl⟩

theorem Kind.eff_interruptReturn (s : State) : Kind.image.EffOut s s.interruptReturn := by
  rcases s.interruptReturn_cases with ⟨-, off, sel, image, -, h⟩ | ⟨hn, h⟩ <;> rw [h]
  · split
    · exact .inr ⟨rfl, rfl⟩
    · exact ⟨⟨_, off, sel, _, rfl⟩, s.segRecords_flagged _ _ _ _⟩
  · exact .inl fun hf => hn (hf.segBacked _ _ _)

theorem Kind.next_jumpIf (b : Bool) (rel : Byte) (s : State) : Kind.near.Next s (jumpIf b rel s) := by
  unfold jumpIf
  split <;> exact ⟨s.regs, s.mem, _, rfl, .refl _ _⟩

theorem Kind.next_loopWhile (b : Bool) (rel : Byte) (s : State) : Kind.near.Next s (loopWhile b rel s) := by
  unfold loopWhile jumpIf
  dsimp only
  split <;> exact ⟨_, s.mem, _, rfl, .refl _ _⟩

theorem Kind.eff_jumpNear {s : State} {x : Eff (BitVec Width.w16.bits)} (hx : s.Bounded x) :
    Kind.near.EffOut s (jumpNear x s) :=
  Kind.eff_bind hx fun t _ _ => Kind.eff_ok ⟨s.regs, s.mem, t, rfl, .refl _ _⟩

theorem Kind.eff_jumpFar {s : State} {x : Eff (Half × Half)} (hx : s.Bounded x) :
    Kind.far.EffOut s (jumpFar x s) :=
  Kind.eff_bind hx fun t _ _ => Kind.eff_ok ⟨s.regs, s.mem, t.1, t.2, rfl, .refl _ _⟩

theorem Kind.eff_callNear {s : State} {x : Eff (BitVec Width.w16.bits)} (hx : s.Bounded x) :
    Kind.near.EffOut s (callNear x s) := by
  refine Kind.eff_bind hx fun a _ _ => Kind.eff_bind (s.bounded_push _ _) fun t _ h => ?_
  obtain ⟨g, m, rfl, hg⟩ := State.push_next h
  exact Kind.eff_ok ⟨g, m, a, rfl, hg⟩

theorem Kind.eff_callFar {s : State} {x : Eff (Half × Half)} (hx : s.Bounded x) :
    Kind.far.EffOut s (callFar x s) := by
  refine Kind.eff_bind hx fun a _ _ => Kind.eff_bind (s.bounded_push _ _) fun t _ h => ?_
  obtain ⟨g, m, rfl, hg⟩ := State.push_next h
  refine Kind.eff_bind (State.bounded_push { s with regs := g, mem := m } _ _) fun u _ h' => ?_
  obtain ⟨g', m', rfl, hg'⟩ := State.push_next h'
  exact Kind.eff_ok ⟨g', m', a.1, a.2, rfl, hg.trans hg'⟩

theorem Kind.eff_retNear (n : Half) (s : State) : Kind.near.EffOut s (retNear n s) := by
  refine Kind.eff_bind (s.bounded_pop .w16) fun vt _ h => ?_
  obtain ⟨g, hg⟩ := State.pop_next h
  rw [hg]
  exact Kind.eff_ok ⟨_, s.mem, vt.1, rfl, .refl _ _⟩

theorem Kind.eff_retFar (n : Half) (s : State) : Kind.far.EffOut s (retFar n s) := by
  refine Kind.eff_bind (s.bounded_pop .w16) fun vt _ h => ?_
  obtain ⟨g, hg⟩ := State.pop_next h
  rw [hg]
  refine Kind.eff_bind (State.bounded_pop { s with regs := g } _) fun ut _ h' => ?_
  obtain ⟨g', hg'⟩ := State.pop_next h'
  rw [hg']
  exact Kind.eff_ok ⟨_, s.mem, vt.1, ut.1, rfl, .refl _ _⟩

theorem Kind.next_portIn (w : Width) (p : Half) (s : State) : Kind.port.Next s (portIn w p s) :=
  ⟨_, _, s.deviceFrame_portRead p w.bytes, fun h => State.pendingOk_portRead h p w.bytes, rfl⟩

theorem Kind.next_portOut (w : Width) (p : Half) (s : State) : Kind.port.Next s (portOut w p s) :=
  ⟨_, _, s.deviceFrame_portWrite p w.bytes _, fun h => State.pendingOk_portWrite h p w.bytes _, rfl⟩

/-! ### All instructions -/

/-- What exec answers, by the kind of the instruction: which parts of the state can change, and when it stops. -/
theorem exec_does (i : Instr) (s : State) : (kindOf i).Out s (exec i s) := by
  cases i <;> dsimp only [exec, kindOf,
    execAddEbGb, execAddEvGv, execAddGbEb, execAddGvEv, execAddAlIb, execAddEaxIv, execAddEbIb, execAddEvIv,
    execAddEvIbs, execOrEbGb, execOrEvGv, execOrGbEb, execOrGvEv, execOrAlIb, execOrEaxIv, execOrEbIb, execOrEvIv,
    execOrEvIbs, execAdcEbGb, execAdcEvGv, execAdcGbEb, execAdcGvEv, execAdcAlIb, execAdcEaxIv, execAdcEbIb,
    execAdcEvIv, execAdcEvIbs, execSbbEbGb, execSbbEvGv, execSbbGbEb, execSbbGvEv, execSbbAlIb, execSbbEaxIv,
    execSbbEbIb, execSbbEvIv, execSbbEvIbs, execAndEbGb, execAndEvGv, execAndGbEb, execAndGvEv, execAndAlIb,
    execAndEaxIv, execAndEbIb, execAndEvIv, execAndEvIbs, execSubEbGb, execSubEvGv, execSubGbEb, execSubGvEv,
    execSubAlIb, execSubEaxIv, execSubEbIb, execSubEvIv, execSubEvIbs, execXorEbGb, execXorEvGv, execXorGbEb,
    execXorGvEv, execXorAlIb, execXorEaxIv, execXorEbIb, execXorEvIv, execXorEvIbs, execCmpEbGb, execCmpEvGv,
    execCmpGbEb, execCmpGvEv, execCmpAlIb, execCmpEaxIv, execCmpEbIb, execCmpEvIv, execCmpEvIbs, execPushEs,
    execPushCs, execPushSs, execPushDs, execPopEs, execPopSs, execPopDs, execPrefixEs, execPrefixCs, execPrefixSs,
    execPrefixDs, execPrefixOpsize, execIncR, execDecR, execPushR, execPopR, execPushIv, execPushIbs, execJo,
    execJno, execJb, execJae, execJe, execJne, execJbe, execJa, execJs, execJns, execJp, execJnp, execJl, execJge,
    execJle, execJg, execTestEbGb, execTestEvGv, execXchgEbGb, execXchgEvGv, execMovEbGb, execMovEvGv,
    execMovGbEb, execMovGvEv, execMovEwSw, execMovEsEw, execMovSsEw, execMovDsEw, execLeaGvM, execPopEv, execNop,
    execXchgEaxEcx, execXchgEaxEdx, execXchgEaxEbx, execXchgEaxEsp, execXchgEaxEbp, execXchgEaxEsi,
    execXchgEaxEdi, execCbw, execCwd, execCallAp, execPushf, execPopf, execSahf, execLahf, execMovAlOb,
    execMovEaxOv, execMovObAl, execMovOvEax, execTestAlIb, execTestEaxIv, execMovR8Ib, execMovRIv, execRolEbIb,
    execRorEbIb, execRclEbIb, execRcrEbIb, execShlEbIb, execShrEbIb, execSarEbIb, execRolEvIb, execRorEvIb,
    execRclEvIb, execRcrEvIb, execShlEvIb, execShrEvIb, execSarEvIb, execRolEbOne, execRorEbOne, execRclEbOne,
    execRcrEbOne, execShlEbOne, execShrEbOne, execSarEbOne, execRolEvOne, execRorEvOne, execRclEvOne,
    execRcrEvOne, execShlEvOne, execShrEvOne, execSarEvOne, execRolEbCl, execRorEbCl, execRclEbCl, execRcrEbCl,
    execShlEbCl, execShrEbCl, execSarEbCl, execRolEvCl, execRorEvCl, execRclEvCl, execRcrEvCl, execShlEvCl,
    execShrEvCl, execSarEvCl, execRetIw, execRet, execMovEbIb, execMovEvIv, execRetfIw, execRetf, execInt3,
    execIntIb, execInto, execIret, execXlat, execLoopne, execLoope, execLoop, execJcxz, execInAlIb, execInEaxIb,
    execOutIbAl, execOutIbEax, execCallJv, execJmpJv, execJmpAp, execJmpJb, execInAlDx, execInEaxDx, execOutDxAl,
    execOutDxEax, execHlt, execCmc, execTestEbIb, execTestEvIv, execNotEb, execNotEv, execNegEb, execNegEv,
    execMulEb, execMulEv, execImulEb, execImulEv, execDivEb, execDivEv, execIdivEb, execIdivEv, execClc, execStc,
    execCli, execSti, execIncEb, execDecEb, execIncEv, execDecEv, execCallEv, execCallMp, execJmpEv, execJmpMp,
    execPushEv, aluEG, aluEI, incE, decE, negE, signFillHigh]
  all_goals first
    | with_reducible exact Kind.out_ofEff (Kind.eff_aluOnE _ _ _ _ s)
    | with_reducible exact Kind.out_aluGE _ _ _ _ s
    | with_reducible exact Kind.out_shiftE _ _ _ _ s
    | with_reducible exact Kind.out_testE _ _ _ s
    | with_reducible exact Kind.out_next (Kind.next_jumpIf _ _ s)
    | with_reducible exact Kind.out_ofEff (Kind.eff_push s _ _)
    | with_reducible exact Kind.out_ofEff (Kind.eff_writeE s _ _ _)
    | with_reducible exact Kind.out_next (Kind.next_writeReg s _ _ _)
    | with_reducible exact Kind.out_next (Kind.next_xchgAcc _ s)
    | with_reducible exact Kind.out_ofEff (Kind.eff_loadReg _ (s.bounded_readE _ _))
    | with_reducible exact Kind.out_ofEff (Kind.eff_loadReg _ (s.bounded_readSeg _ _ _))
    | with_reducible exact Kind.out_ofEff (Kind.eff_writeSeg s _ _ _ _)
    | with_reducible exact Kind.out_next (Kind.next_portIn _ _ s)
    | with_reducible exact Kind.out_next (Kind.next_portOut _ _ s)
    | with_reducible exact Kind.out_unaryE _ _ (fun _ _ => rfl) _ s
    | with_reducible exact Kind.out_notE _ _ s
    | with_reducible exact Kind.out_mulE _ _ s
    | with_reducible exact Kind.out_imulE _ _ s
    | with_reducible exact Kind.out_divE _ _ s
    | with_reducible exact Kind.out_idivE _ _ s
    | with_reducible exact Kind.out_next (Kind.next_loopWhile _ _ s)
    | with_reducible exact Kind.out_ofEff (Kind.eff_popE _ _ s)
    | with_reducible exact Kind.out_ofEff (Kind.eff_pushE _ _ s)
    | with_reducible exact Kind.out_ofEff (Kind.eff_popSreg _ s)
    | with_reducible exact Kind.out_ofEff (Kind.eff_loadSreg _ (s.bounded_readE _ _))
    | with_reducible exact Kind.out_ofEff (Kind.eff_xchgEG _ _ _ s)
    | with_reducible exact Kind.out_next (Kind.next_signExtendAcc s)
    | with_reducible exact Kind.out_ofEff (Kind.eff_popFlags s)
    | with_reducible exact Kind.out_ofEff (Kind.eff_interruptReturn s)
    | with_reducible exact Kind.out_ofEff (Kind.eff_interrupt s _ _)
    | with_reducible exact Kind.out_ofEff (Kind.eff_callNear (s.bounded_ok _))
    | with_reducible exact Kind.out_ofEff (Kind.eff_callNear (s.bounded_readE _ _))
    | with_reducible exact Kind.out_ofEff (Kind.eff_jumpNear (s.bounded_readE _ _))
    | with_reducible exact Kind.out_ofEff (Kind.eff_callFar (s.bounded_ok _))
    | with_reducible exact Kind.out_ofEff (Kind.eff_callFar (s.bounded_readFarPointer _))
    | with_reducible exact Kind.out_ofEff (Kind.eff_jumpFar (s.bounded_readFarPointer _))
    | with_reducible exact Kind.out_ofEff (Kind.eff_retNear _ s)
    | with_reducible exact Kind.out_ofEff (Kind.eff_retFar _ s)
    | with_reducible exact Kind.out_next (Kind.next_setFlags s _ rfl)
    | exact Kind.out_next ⟨s.regs, s.mem, rfl, .refl _ _⟩
    | exact Kind.out_next ⟨s.regs, s.mem, _, rfl, .refl _ _⟩
    | exact Kind.out_next ⟨s.regs, s.mem, _, _, rfl, .refl _ _⟩
    | exact Kind.out_next ⟨_, rfl⟩
    | exact Kind.out_next ⟨_, _, rfl⟩
    | exact Kind.out_next rfl
    | (split <;> [exact Kind.out_ofEff (Kind.eff_interrupt s _ _); exact Kind.out_next (.inl rfl)])

end Sys2Proof.Machine
end

