-- ==== Sys2Proof/Laws/Meaning.lean ====
section
/-! SUPPORT. One lemma per shared operation of the meanings, when its operands can be accessed: the next state it
gives. -/

namespace Sys2Proof.Machine

/-! ### Values in memory -/

/-- Two values side by side are equal when their parts are. -/
theorem append_inj {m n : Nat} {x x' : BitVec m} {y y' : BitVec n} (h : x ++ y = x' ++ y') : x = x' ∧ y = y' := by
  refine ⟨BitVec.eq_of_getLsbD_eq fun i hi => ?_, BitVec.eq_of_getLsbD_eq fun i hi => ?_⟩
  · have := congrArg (fun b => b.getLsbD (n + i)) h
    simpa [BitVec.getLsbD_append] using this
  · have := congrArg (fun b => b.getLsbD i) h
    simpa [BitVec.getLsbD_append, hi] using this

/-- Memory holds one value of `n` bytes at an address. -/
theorem State.Holds.unique_of_bytes {s : State} {sel off : Half} {n b : Nat} {v v' : BitVec b} (hb : b = 8 * n)
    (h : s.Holds sel off n v) (h' : s.Holds sel off n v') : v = v' := by
  apply BitVec.eq_of_getLsbD_eq
  intro k hk
  have := congrArg (fun b => b.getLsbD (k % 8)) ((h (k / 8) (by omega)).symm.trans (h' (k / 8) (by omega)))
  simpa only [byteOf, BitVec.getLsbD_extractLsb', show k % 8 < 8 by omega, decide_true, Bool.true_and,
    show 8 * (k / 8) + k % 8 = k by omega] using this

/-! ### Arithmetic, logic, shifts -/

theorem State.setFlags_writeE_ok {s : State} (f : Flags) {w : Width} {e : EOperand} (v : BitVec w.bits)
    (hb : s.operandBacked w e = true) :
    ∃ g m, (s.setFlags f).writeE w e v = .ok { s with regs := g, mem := m, flags := f } (s.operandRecords .write w e) ∧
      s.Puts w e v g m := by
  obtain ⟨g, m, h, hp⟩ := (s.setFlags f).writeE_ok w e v (by simpa using hb)
  rw [s.operandRecords_setFlags] at h
  exact ⟨g, m, h, by simpa using hp⟩

/-- Every operation with a result: it is written to the destination, with the flags of the operation (R205). -/
theorem aluOnE_ok {s : State} {op : AluOp} {w : Width} {e : EOperand} {a : BitVec w.bits} (b : BitVec w.bits)
    (hop : op ≠ .cmp) (hb : s.operandBacked w e = true) (ha : s.Reads w e a) :
    ∃ g m, aluOnE op w e b s = .ok { s with regs := g, mem := m, flags := (aluResult op a b s.flags).2 }
        (s.operandRecords .read w e ++ s.operandRecords .write w e) ∧
      s.Puts w e (aluResult op a b s.flags).1 g m := by
  obtain ⟨g, m, h, hp⟩ := State.setFlags_writeE_ok (aluResult op a b s.flags).2 (aluResult op a b s.flags).1 hb
  refine ⟨g, m, ?_, hp⟩
  unfold aluOnE
  rw [State.readE_ok hb ha, Eff.ok_bind]
  simp only [hop, if_false, h, Eff.after_ok]

theorem aluOnE_cmp {s : State} {w : Width} {e : EOperand} {a : BitVec w.bits} (b : BitVec w.bits)
    (hb : s.operandBacked w e = true) (ha : s.Reads w e a) :
    aluOnE .cmp w e b s = .ok { s with flags := (aluResult .cmp a b s.flags).2 } (s.operandRecords .read w e) := by
  unfold aluOnE
  rw [State.readE_ok hb ha]
  simp [State.setFlags]

theorem testE_ok {s : State} {w : Width} {e : EOperand} {a : BitVec w.bits} (b : BitVec w.bits)
    (hb : s.operandBacked w e = true) (ha : s.Reads w e a) :
    testE w e b s = .next { s with
      flags := logicFlags (a &&& b) s.flags
      trace := s.trace ++ s.operandRecords .read w e } := by
  unfold testE
  rw [State.readE_ok hb ha]
  simp [State.setFlags, State.emit]

theorem unaryE_ok {s : State} {w : Width} {e : EOperand} {a : BitVec w.bits}
    (f : BitVec w.bits → Flags → BitVec w.bits × Flags) (hb : s.operandBacked w e = true) (ha : s.Reads w e a) :
    ∃ g m, s.Puts w e (f a s.flags).1 g m ∧
      unaryE w f e s = .next { s with
        regs := g
        mem := m
        flags := (f a s.flags).2
        trace := s.trace ++ (s.operandRecords .read w e ++ s.operandRecords .write w e) } := by
  obtain ⟨g, m, h, hp⟩ := State.setFlags_writeE_ok (f a s.flags).2 (f a s.flags).1 hb
  refine ⟨g, m, hp, ?_⟩
  unfold unaryE
  rw [State.readE_ok hb ha, Eff.ok_bind, h]
  rfl

theorem shiftE_ok {s : State} {op : ShiftOp} {w : Width} {e : EOperand} {c : Byte} {a : BitVec w.bits}
    (hb : s.operandBacked w e = true) (ha : s.Reads w e a) (hc : c.toNat % 32 ≠ 0) :
    ∃ g m, shiftE op w e c s = .next { s with
        regs := g
        mem := m
        flags := (shiftResult op w a (c.toNat % 32) s.flags).2
        trace := s.trace ++ (s.operandRecords .read w e ++ s.operandRecords .write w e) } ∧
      s.Puts w e (shiftResult op w a (c.toNat % 32) s.flags).1 g m := by
  obtain ⟨g, m, h, hp⟩ := State.setFlags_writeE_ok (shiftResult op w a (c.toNat % 32) s.flags).2
    (shiftResult op w a (c.toNat % 32) s.flags).1 hb
  refine ⟨g, m, ?_, hp⟩
  unfold shiftE
  rw [State.readE_ok hb ha, Eff.ok_bind]
  simp only [hc, if_false, h]
  rfl

/-- The double-width accumulator's two halves are written one after the other (R230, R232). -/
theorem writeAccPair_wrote (w : Width) (hi lo : BitVec w.bits) (s : State) :
    ∃ g g', s.regs.Wrote w .r0 lo g ∧ g.Wrote w (highAcc w) hi g' ∧ writeAccPair w hi lo s = { s with regs := g' } :=
  ⟨_, _, s.regs.write_wrote w .r0 lo, (s.regs.write w .r0 lo).write_wrote w (highAcc w) hi, rfl⟩

/-! ### Stack, control transfer, interrupts -/

theorem State.push_ok {s : State} {w : Width} {v : BitVec w.bits}
    (hb : s.segBacked s.sregs.ss (s.sp - BitVec.ofNat 16 w.bytes) w.bytes) :
    ∃ m, s.push w v = .ok { s with regs := s.regs.write .w16 .r4 (s.sp - BitVec.ofNat 16 w.bytes), mem := m }
        (s.segRecords .write s.sregs.ss (s.sp - BitVec.ofNat 16 w.bytes) w.bytes) ∧
      s.Stores s.sregs.ss (s.sp - BitVec.ofNat 16 w.bytes) w.bytes v m := by
  rcases s.push_cases w v with ⟨-, m, h1, h2, -⟩ | ⟨hn, -⟩
  · exact ⟨m, h1, h2⟩
  · exact absurd hb hn

theorem State.pop_ok {s : State} {w : Width} {v : BitVec w.bits} (hb : s.segBacked s.sregs.ss s.sp w.bytes)
    (hh : s.Holds s.sregs.ss s.sp w.bytes v) :
    s.pop w = .ok (v, { s with regs := s.regs.write .w16 .r4 (s.sp + BitVec.ofNat 16 w.bytes) })
      (s.segRecords .read s.sregs.ss s.sp w.bytes) := by
  rcases s.pop_cases w with ⟨-, v', h1, h2⟩ | ⟨hn, -⟩
  · rw [h1, h2.unique hh]
  · exact absurd hb hn

/-- Writing SP back to what it was restores the registers. -/
theorem Regs.write_sp_restores {g g' : Regs} {x : Half} (h : g.Wrote .w16 .r4 x g') :
    g'.write .w16 .r4 (g.view .w16 .r4) = g := by
  rw [Regs.Wrote.unique h (g.write_wrote _ _ _), Regs.write_sp_sp]
  refine Regs.Wrote.unique (g.write_wrote .w16 .r4 _) fun j k hk => ?_
  split
  · rename_i h
    obtain ⟨rfl, -, h2⟩ := h
    change k < 0 + 16 at h2
    simp only [Regs.view, viewLow, viewHome, BitVec.getLsbD_extractLsb', Width.bits, Nat.zero_add, Nat.sub_zero,
      show k < 16 by omega, decide_true, Bool.true_and]
  · rfl

/-- A relative target with an 8-bit displacement, as a number (R115). -/
theorem State.relTarget8_eq (s : State) (d : Byte) : s.relTarget8 d = BitVec.ofInt 16 (s.ip.toNat + d.toInt) := by
  simp only [State.relTarget8, State.relTarget]
  apply BitVec.eq_of_toInt_eq
  have h8 : (BitVec.toInt d).bmod 256 = d.toInt := BitVec.toInt_bmod_cancel d
  rw [BitVec.toInt_add, BitVec.toInt_signExtend, BitVec.toInt_ofInt]
  simp [BitVec.toInt_eq_toNat_bmod s.ip, h8]

/-- A relative target with a 16-bit displacement, as a number (R115). -/
theorem State.relTarget_eq (s : State) (d : Half) : s.relTarget d = BitVec.ofInt 16 (s.ip.toNat + d.toInt) := by
  simp only [State.relTarget]
  apply BitVec.eq_of_toInt_eq
  rw [BitVec.toInt_add, BitVec.toInt_ofInt]
  simp [BitVec.toInt_eq_toNat_bmod s.ip]

end Sys2Proof.Machine
end

