-- ==== Sys2Proof/Tests/Slice0.lean ====
section
/-! SUPPORT. Tests: ill-formed terms that WellFormed refuses, the decoding of a word for every row of the opcode table
(bytes written out from `spec/opcode_table.json`: opcode, ModRM, displacement, immediate), single steps with the
results of `spec/95_test_vectors.md`, and a witness for every statement with hypotheses. -/

namespace Sys2Proof.Tests

open Sys2Proof.Machine

/-! ### Well-formedness (one ill-formed term for each check) -/

/-- `mod` 00 with `rm` 110 is the direct form: [BP] alone has no encoding (R110). -/
theorem test_illformed_base_bp : (Instr.addEbGb (.mem (.base .bp)) .r0).wellFormed false = false := by decide

/-- A 32-bit immediate without the operand-size prefix (R114). -/
theorem test_illformed_imm32 : (Instr.addEaxIv (.imm32 0)).wellFormed false = false := by decide

/-- A 16-bit immediate under the operand-size prefix (R114). -/
theorem test_illformed_imm16 : (Instr.addEaxIv (.imm16 0)).wellFormed true = false := by decide

/-- The operand-size prefix on a row of class `fault` (R107). -/
theorem test_illformed_fault_class : (Instr.jmpJb 0).wellFormed true = false := by decide

/-- LEA with a memory operand without an encoding (R110, R162). -/
theorem test_illformed_lea : (Instr.leaGvM .r0 (.base .bp)).wellFormed false = false := by decide

theorem test_wellformed : (Instr.addEbGb (.mem (.disp8 .bp 0)) .r0).wellFormed true = true := by decide

/-! ### Decoding of every row -/

/-- The bytes decode to the instruction, all of them used. -/
def dec (bs : List Byte) (i : Instr) (n : Nat) : Bool := decodeUnit false bs == .done i n

theorem test_decode_alu1 :
    (dec [0x00, 0xCB] (.addEbGb (.reg .r3) .r1) 2 &&
    dec [0x01, 0x8E, 0x34, 0x12] (.addEvGv (.mem (.disp16 .bp 0x1234)) .r1) 4 &&
    dec [0x02, 0x0F] (.addGbEb .r1 (.mem (.base .bx))) 2 &&
    dec [0x03, 0xCB] (.addGvEv .r1 (.reg .r3)) 2 &&
    dec [0x04, 0x9A] (.addAlIb 0x9A) 2 &&
    dec [0x05, 0x78, 0x56] (.addEaxIv (.imm16 0x5678)) 3 &&
    dec [0x80, 0x86, 0x34, 0x12, 0x9A] (.addEbIb (.mem (.disp16 .bp 0x1234)) 0x9A) 5 &&
    dec [0x81, 0x07, 0x78, 0x56] (.addEvIv (.mem (.base .bx)) (.imm16 0x5678)) 4 &&
    dec [0x83, 0x86, 0x34, 0x12, 0x9A] (.addEvIbs (.mem (.disp16 .bp 0x1234)) 0x9A) 5 &&
    dec [0x08, 0x0F] (.orEbGb (.mem (.base .bx)) .r1) 2 &&
    dec [0x09, 0xCB] (.orEvGv (.reg .r3) .r1) 2 &&
    dec [0x0A, 0x8E, 0x34, 0x12] (.orGbEb .r1 (.mem (.disp16 .bp 0x1234))) 4 &&
    dec [0x0B, 0x0F] (.orGvEv .r1 (.mem (.base .bx))) 2 &&
    dec [0x0C, 0x9A] (.orAlIb 0x9A) 2 &&
    dec [0x0D, 0x78, 0x56] (.orEaxIv (.imm16 0x5678)) 3 &&
    dec [0x80, 0x0F, 0x9A] (.orEbIb (.mem (.base .bx)) 0x9A) 3 &&
    dec [0x81, 0xCB, 0x78, 0x56] (.orEvIv (.reg .r3) (.imm16 0x5678)) 4 &&
    dec [0x83, 0x0F, 0x9A] (.orEvIbs (.mem (.base .bx)) 0x9A) 3 &&
    dec [0x10, 0x8E, 0x34, 0x12] (.adcEbGb (.mem (.disp16 .bp 0x1234)) .r1) 4 &&
    dec [0x11, 0x0F] (.adcEvGv (.mem (.base .bx)) .r1) 2 &&
    dec [0x12, 0xCB] (.adcGbEb .r1 (.reg .r3)) 2 &&
    dec [0x13, 0x8E, 0x34, 0x12] (.adcGvEv .r1 (.mem (.disp16 .bp 0x1234))) 4 &&
    dec [0x14, 0x9A] (.adcAlIb 0x9A) 2 &&
    dec [0x15, 0x78, 0x56] (.adcEaxIv (.imm16 0x5678)) 3 &&
    dec [0x80, 0xD3, 0x9A] (.adcEbIb (.reg .r3) 0x9A) 3 &&
    dec [0x81, 0x96, 0x34, 0x12, 0x78, 0x56] (.adcEvIv (.mem (.disp16 .bp 0x1234)) (.imm16 0x5678)) 6 &&
    dec [0x83, 0xD3, 0x9A] (.adcEvIbs (.reg .r3) 0x9A) 3 &&
    dec [0x18, 0xCB] (.sbbEbGb (.reg .r3) .r1) 2 &&
    dec [0x19, 0x8E, 0x34, 0x12] (.sbbEvGv (.mem (.disp16 .bp 0x1234)) .r1) 4 &&
    dec [0x1A, 0x0F] (.sbbGbEb .r1 (.mem (.base .bx))) 2 &&
    dec [0x1B, 0xCB] (.sbbGvEv .r1 (.reg .r3)) 2 &&
    dec [0x1C, 0x9A] (.sbbAlIb 0x9A) 2 &&
    dec [0x1D, 0x78, 0x56] (.sbbEaxIv (.imm16 0x5678)) 3 &&
    dec [0x80, 0x9E, 0x34, 0x12, 0x9A] (.sbbEbIb (.mem (.disp16 .bp 0x1234)) 0x9A) 5 &&
    dec [0x81, 0x1F, 0x78, 0x56] (.sbbEvIv (.mem (.base .bx)) (.imm16 0x5678)) 4 &&
    dec [0x83, 0x9E, 0x34, 0x12, 0x9A] (.sbbEvIbs (.mem (.disp16 .bp 0x1234)) 0x9A) 5) = true := by decide

theorem test_decode_alu2 :
    (dec [0x20, 0x0F] (.andEbGb (.mem (.base .bx)) .r1) 2 &&
    dec [0x21, 0xCB] (.andEvGv (.reg .r3) .r1) 2 &&
    dec [0x22, 0x8E, 0x34, 0x12] (.andGbEb .r1 (.mem (.disp16 .bp 0x1234))) 4 &&
    dec [0x23, 0x0F] (.andGvEv .r1 (.mem (.base .bx))) 2 &&
    dec [0x24, 0x9A] (.andAlIb 0x9A) 2 &&
    dec [0x25, 0x78, 0x56] (.andEaxIv (.imm16 0x5678)) 3 &&
    dec [0x80, 0x27, 0x9A] (.andEbIb (.mem (.base .bx)) 0x9A) 3 &&
    dec [0x81, 0xE3, 0x78, 0x56] (.andEvIv (.reg .r3) (.imm16 0x5678)) 4 &&
    dec [0x83, 0x27, 0x9A] (.andEvIbs (.mem (.base .bx)) 0x9A) 3 &&
    dec [0x28, 0x8E, 0x34, 0x12] (.subEbGb (.mem (.disp16 .bp 0x1234)) .r1) 4 &&
    dec [0x29, 0x0F] (.subEvGv (.mem (.base .bx)) .r1) 2 &&
    dec [0x2A, 0xCB] (.subGbEb .r1 (.reg .r3)) 2 &&
    dec [0x2B, 0x8E, 0x34, 0x12] (.subGvEv .r1 (.mem (.disp16 .bp 0x1234))) 4 &&
    dec [0x2C, 0x9A] (.subAlIb 0x9A) 2 &&
    dec [0x2D, 0x78, 0x56] (.subEaxIv (.imm16 0x5678)) 3 &&
    dec [0x80, 0xEB, 0x9A] (.subEbIb (.reg .r3) 0x9A) 3 &&
    dec [0x81, 0xAE, 0x34, 0x12, 0x78, 0x56] (.subEvIv (.mem (.disp16 .bp 0x1234)) (.imm16 0x5678)) 6 &&
    dec [0x83, 0xEB, 0x9A] (.subEvIbs (.reg .r3) 0x9A) 3 &&
    dec [0x30, 0xCB] (.xorEbGb (.reg .r3) .r1) 2 &&
    dec [0x31, 0x8E, 0x34, 0x12] (.xorEvGv (.mem (.disp16 .bp 0x1234)) .r1) 4 &&
    dec [0x32, 0x0F] (.xorGbEb .r1 (.mem (.base .bx))) 2 &&
    dec [0x33, 0xCB] (.xorGvEv .r1 (.reg .r3)) 2 &&
    dec [0x34, 0x9A] (.xorAlIb 0x9A) 2 &&
    dec [0x35, 0x78, 0x56] (.xorEaxIv (.imm16 0x5678)) 3 &&
    dec [0x80, 0xB6, 0x34, 0x12, 0x9A] (.xorEbIb (.mem (.disp16 .bp 0x1234)) 0x9A) 5 &&
    dec [0x81, 0x37, 0x78, 0x56] (.xorEvIv (.mem (.base .bx)) (.imm16 0x5678)) 4 &&
    dec [0x83, 0xB6, 0x34, 0x12, 0x9A] (.xorEvIbs (.mem (.disp16 .bp 0x1234)) 0x9A) 5 &&
    dec [0x38, 0x0F] (.cmpEbGb (.mem (.base .bx)) .r1) 2 &&
    dec [0x39, 0xCB] (.cmpEvGv (.reg .r3) .r1) 2 &&
    dec [0x3A, 0x8E, 0x34, 0x12] (.cmpGbEb .r1 (.mem (.disp16 .bp 0x1234))) 4 &&
    dec [0x3B, 0x0F] (.cmpGvEv .r1 (.mem (.base .bx))) 2 &&
    dec [0x3C, 0x9A] (.cmpAlIb 0x9A) 2 &&
    dec [0x3D, 0x78, 0x56] (.cmpEaxIv (.imm16 0x5678)) 3 &&
    dec [0x80, 0x3F, 0x9A] (.cmpEbIb (.mem (.base .bx)) 0x9A) 3 &&
    dec [0x81, 0xFB, 0x78, 0x56] (.cmpEvIv (.reg .r3) (.imm16 0x5678)) 4 &&
    dec [0x83, 0x3F, 0x9A] (.cmpEvIbs (.mem (.base .bx)) 0x9A) 3) = true := by decide

theorem test_decode_testIncDec :
    (dec [0x45] (.incR .r5) 1 &&
    dec [0x4D] (.decR .r5) 1 &&
    dec [0x84, 0xCB] (.testEbGb (.reg .r3) .r1) 2 &&
    dec [0x85, 0x8E, 0x34, 0x12] (.testEvGv (.mem (.disp16 .bp 0x1234)) .r1) 4 &&
    dec [0xA8, 0x9A] (.testAlIb 0x9A) 2 &&
    dec [0xA9, 0x78, 0x56] (.testEaxIv (.imm16 0x5678)) 3 &&
    dec [0xF6, 0x07, 0x9A] (.testEbIb (.mem (.base .bx)) 0x9A) 3 &&
    dec [0xF7, 0xC3, 0x78, 0x56] (.testEvIv (.reg .r3) (.imm16 0x5678)) 4 &&
    dec [0xF6, 0x96, 0x34, 0x12] (.notEb (.mem (.disp16 .bp 0x1234))) 4 &&
    dec [0xF7, 0x17] (.notEv (.mem (.base .bx))) 2 &&
    dec [0xF6, 0x1F] (.negEb (.mem (.base .bx))) 2 &&
    dec [0xF7, 0xDB] (.negEv (.reg .r3)) 2 &&
    dec [0xF6, 0xE3] (.mulEb (.reg .r3)) 2 &&
    dec [0xF7, 0xA6, 0x34, 0x12] (.mulEv (.mem (.disp16 .bp 0x1234))) 4 &&
    dec [0xF6, 0xAE, 0x34, 0x12] (.imulEb (.mem (.disp16 .bp 0x1234))) 4 &&
    dec [0xF7, 0x2F] (.imulEv (.mem (.base .bx))) 2 &&
    dec [0xF6, 0x37] (.divEb (.mem (.base .bx))) 2 &&
    dec [0xF7, 0xF3] (.divEv (.reg .r3)) 2 &&
    dec [0xF6, 0xFB] (.idivEb (.reg .r3)) 2 &&
    dec [0xF7, 0xBE, 0x34, 0x12] (.idivEv (.mem (.disp16 .bp 0x1234))) 4 &&
    dec [0xFE, 0x86, 0x34, 0x12] (.incEb (.mem (.disp16 .bp 0x1234))) 4 &&
    dec [0xFE, 0x0F] (.decEb (.mem (.base .bx))) 2 &&
    dec [0xFF, 0x07] (.incEv (.mem (.base .bx))) 2 &&
    dec [0xFF, 0xCB] (.decEv (.reg .r3)) 2) = true := by decide

theorem test_decode_rotates :
    (dec [0xC0, 0x07, 0x9A] (.rolEbIb (.mem (.base .bx)) 0x9A) 3 &&
    dec [0xC0, 0xCB, 0x9A] (.rorEbIb (.reg .r3) 0x9A) 3 &&
    dec [0xC0, 0x96, 0x34, 0x12, 0x9A] (.rclEbIb (.mem (.disp16 .bp 0x1234)) 0x9A) 5 &&
    dec [0xC0, 0x1F, 0x9A] (.rcrEbIb (.mem (.base .bx)) 0x9A) 3 &&
    dec [0xC1, 0xC3, 0x9A] (.rolEvIb (.reg .r3) 0x9A) 3 &&
    dec [0xC1, 0x8E, 0x34, 0x12, 0x9A] (.rorEvIb (.mem (.disp16 .bp 0x1234)) 0x9A) 5 &&
    dec [0xC1, 0x17, 0x9A] (.rclEvIb (.mem (.base .bx)) 0x9A) 3 &&
    dec [0xC1, 0xDB, 0x9A] (.rcrEvIb (.reg .r3) 0x9A) 3 &&
    dec [0xD0, 0xC3] (.rolEbOne (.reg .r3)) 2 &&
    dec [0xD0, 0x8E, 0x34, 0x12] (.rorEbOne (.mem (.disp16 .bp 0x1234))) 4 &&
    dec [0xD0, 0x17] (.rclEbOne (.mem (.base .bx))) 2 &&
    dec [0xD0, 0xDB] (.rcrEbOne (.reg .r3)) 2 &&
    dec [0xD1, 0x86, 0x34, 0x12] (.rolEvOne (.mem (.disp16 .bp 0x1234))) 4 &&
    dec [0xD1, 0x0F] (.rorEvOne (.mem (.base .bx))) 2 &&
    dec [0xD1, 0xD3] (.rclEvOne (.reg .r3)) 2 &&
    dec [0xD1, 0x9E, 0x34, 0x12] (.rcrEvOne (.mem (.disp16 .bp 0x1234))) 4 &&
    dec [0xD2, 0x07] (.rolEbCl (.mem (.base .bx))) 2 &&
    dec [0xD2, 0xCB] (.rorEbCl (.reg .r3)) 2 &&
    dec [0xD2, 0x96, 0x34, 0x12] (.rclEbCl (.mem (.disp16 .bp 0x1234))) 4 &&
    dec [0xD2, 0x1F] (.rcrEbCl (.mem (.base .bx))) 2 &&
    dec [0xD3, 0xC3] (.rolEvCl (.reg .r3)) 2 &&
    dec [0xD3, 0x8E, 0x34, 0x12] (.rorEvCl (.mem (.disp16 .bp 0x1234))) 4 &&
    dec [0xD3, 0x17] (.rclEvCl (.mem (.base .bx))) 2 &&
    dec [0xD3, 0xDB] (.rcrEvCl (.reg .r3)) 2) = true := by decide

theorem test_decode_shifts :
    (dec [0xC0, 0xE3, 0x9A] (.shlEbIb (.reg .r3) 0x9A) 3 &&
    dec [0xC0, 0xAE, 0x34, 0x12, 0x9A] (.shrEbIb (.mem (.disp16 .bp 0x1234)) 0x9A) 5 &&
    dec [0xC0, 0xFB, 0x9A] (.sarEbIb (.reg .r3) 0x9A) 3 &&
    dec [0xC1, 0xA6, 0x34, 0x12, 0x9A] (.shlEvIb (.mem (.disp16 .bp 0x1234)) 0x9A) 5 &&
    dec [0xC1, 0x2F, 0x9A] (.shrEvIb (.mem (.base .bx)) 0x9A) 3 &&
    dec [0xC1, 0xBE, 0x34, 0x12, 0x9A] (.sarEvIb (.mem (.disp16 .bp 0x1234)) 0x9A) 5 &&
    dec [0xD0, 0xA6, 0x34, 0x12] (.shlEbOne (.mem (.disp16 .bp 0x1234))) 4 &&
    dec [0xD0, 0x2F] (.shrEbOne (.mem (.base .bx))) 2 &&
    dec [0xD0, 0xBE, 0x34, 0x12] (.sarEbOne (.mem (.disp16 .bp 0x1234))) 4 &&
    dec [0xD1, 0x27] (.shlEvOne (.mem (.base .bx))) 2 &&
    dec [0xD1, 0xEB] (.shrEvOne (.reg .r3)) 2 &&
    dec [0xD1, 0x3F] (.sarEvOne (.mem (.base .bx))) 2 &&
    dec [0xD2, 0xE3] (.shlEbCl (.reg .r3)) 2 &&
    dec [0xD2, 0xAE, 0x34, 0x12] (.shrEbCl (.mem (.disp16 .bp 0x1234))) 4 &&
    dec [0xD2, 0xFB] (.sarEbCl (.reg .r3)) 2 &&
    dec [0xD3, 0xA6, 0x34, 0x12] (.shlEvCl (.mem (.disp16 .bp 0x1234))) 4 &&
    dec [0xD3, 0x2F] (.shrEvCl (.mem (.base .bx))) 2 &&
    dec [0xD3, 0xBE, 0x34, 0x12] (.sarEvCl (.mem (.disp16 .bp 0x1234))) 4) = true := by decide

theorem test_decode_moves :
    (dec [0x86, 0x0F] (.xchgEbGb (.mem (.base .bx)) .r1) 2 &&
    dec [0x87, 0xCB] (.xchgEvGv (.reg .r3) .r1) 2 &&
    dec [0x88, 0x8E, 0x34, 0x12] (.movEbGb (.mem (.disp16 .bp 0x1234)) .r1) 4 &&
    dec [0x89, 0x0F] (.movEvGv (.mem (.base .bx)) .r1) 2 &&
    dec [0x8A, 0xCB] (.movGbEb .r1 (.reg .r3)) 2 &&
    dec [0x8B, 0x8E, 0x34, 0x12] (.movGvEv .r1 (.mem (.disp16 .bp 0x1234))) 4 &&
    dec [0x8C, 0xD3] (.movEwSw (.reg .r3) .ss) 2 &&
    dec [0x8E, 0xC3] (.movEsEw (.reg .r3)) 2 &&
    dec [0x8E, 0x17] (.movSsEw (.mem (.base .bx))) 2 &&
    dec [0x8E, 0xDB] (.movDsEw (.reg .r3)) 2 &&
    dec [0x8D, 0x48, 0x10] (.leaGvM .r1 (.disp8 .bxSi 0x10)) 3 &&
    dec [0x90] .nop 1 &&
    dec [0x91] .xchgEaxEcx 1 &&
    dec [0x92] .xchgEaxEdx 1 &&
    dec [0x93] .xchgEaxEbx 1 &&
    dec [0x94] .xchgEaxEsp 1 &&
    dec [0x95] .xchgEaxEbp 1 &&
    dec [0x96] .xchgEaxEsi 1 &&
    dec [0x97] .xchgEaxEdi 1 &&
    dec [0x98] .cbw 1 &&
    dec [0x99] .cwd 1 &&
    dec [0x9E] .sahf 1 &&
    dec [0x9F] .lahf 1 &&
    dec [0xA0, 0x78, 0x56] (.movAlOb 0x5678) 3 &&
    dec [0xA1, 0x78, 0x56] (.movEaxOv 0x5678) 3 &&
    dec [0xA2, 0x78, 0x56] (.movObAl 0x5678) 3 &&
    dec [0xA3, 0x78, 0x56] (.movOvEax 0x5678) 3 &&
    dec [0xB5, 0x9A] (.movR8Ib .r5 0x9A) 2 &&
    dec [0xBD, 0x78, 0x56] (.movRIv .r5 (.imm16 0x5678)) 3 &&
    dec [0xC6, 0x07, 0x9A] (.movEbIb (.mem (.base .bx)) 0x9A) 3 &&
    dec [0xC7, 0xC3, 0x78, 0x56] (.movEvIv (.reg .r3) (.imm16 0x5678)) 4 &&
    dec [0xD7] .xlat 1) = true := by decide

theorem test_decode_stack :
    (dec [0x06] .pushEs 1 &&
    dec [0x0E] .pushCs 1 &&
    dec [0x16] .pushSs 1 &&
    dec [0x1E] .pushDs 1 &&
    dec [0x07] .popEs 1 &&
    dec [0x17] .popSs 1 &&
    dec [0x1F] .popDs 1 &&
    dec [0x55] (.pushR .r5) 1 &&
    dec [0x5D] (.popR .r5) 1 &&
    dec [0x68, 0x78, 0x56] (.pushIv (.imm16 0x5678)) 3 &&
    dec [0x6A, 0x9A] (.pushIbs 0x9A) 2 &&
    dec [0x8F, 0x86, 0x34, 0x12] (.popEv (.mem (.disp16 .bp 0x1234))) 4 &&
    dec [0x9C] .pushf 1 &&
    dec [0x9D] .popf 1 &&
    dec [0xFF, 0x37] (.pushEv (.mem (.base .bx))) 2) = true := by decide

theorem test_decode_jumps :
    (dec [0x70, 0xFE] (.jo 0xFE) 2 &&
    dec [0x71, 0xFE] (.jno 0xFE) 2 &&
    dec [0x72, 0xFE] (.jb 0xFE) 2 &&
    dec [0x73, 0xFE] (.jae 0xFE) 2 &&
    dec [0x74, 0xFE] (.je 0xFE) 2 &&
    dec [0x75, 0xFE] (.jne 0xFE) 2 &&
    dec [0x76, 0xFE] (.jbe 0xFE) 2 &&
    dec [0x77, 0xFE] (.ja 0xFE) 2 &&
    dec [0x78, 0xFE] (.js 0xFE) 2 &&
    dec [0x79, 0xFE] (.jns 0xFE) 2 &&
    dec [0x7A, 0xFE] (.jp 0xFE) 2 &&
    dec [0x7B, 0xFE] (.jnp 0xFE) 2 &&
    dec [0x7C, 0xFE] (.jl 0xFE) 2 &&
    dec [0x7D, 0xFE] (.jge 0xFE) 2 &&
    dec [0x7E, 0xFE] (.jle 0xFE) 2 &&
    dec [0x7F, 0xFE] (.jg 0xFE) 2 &&
    dec [0xE0, 0xFE] (.loopne 0xFE) 2 &&
    dec [0xE1, 0xFE] (.loope 0xFE) 2 &&
    dec [0xE2, 0xFE] (.loop 0xFE) 2 &&
    dec [0xE3, 0xFE] (.jcxz 0xFE) 2 &&
    dec [0xE9, 0x78, 0x56] (.jmpJv 0x5678) 3 &&
    dec [0xEA, 0x78, 0x56, 0x34, 0x12] (.jmpAp 0x5678 0x1234) 5 &&
    dec [0xEB, 0xFE] (.jmpJb 0xFE) 2 &&
    dec [0xFF, 0xE3] (.jmpEv (.reg .r3)) 2 &&
    dec [0xFF, 0x68, 0x10] (.jmpMp (.disp8 .bxSi 0x10)) 3) = true := by decide

theorem test_decode_transfers :
    (dec [0x9A, 0x78, 0x56, 0x34, 0x12] (.callAp 0x5678 0x1234) 5 &&
    dec [0xC2, 0x78, 0x56] (.retIw 0x5678) 3 &&
    dec [0xC3] .ret 1 &&
    dec [0xCA, 0x78, 0x56] (.retfIw 0x5678) 3 &&
    dec [0xCB] .retf 1 &&
    dec [0xCC] .int3 1 &&
    dec [0xCD, 0x9A] (.intIb 0x9A) 2 &&
    dec [0xCE] .into 1 &&
    dec [0xCF] .iret 1 &&
    dec [0xE8, 0x78, 0x56] (.callJv 0x5678) 3 &&
    dec [0xFF, 0x96, 0x34, 0x12] (.callEv (.mem (.disp16 .bp 0x1234))) 4 &&
    dec [0xFF, 0x58, 0x10] (.callMp (.disp8 .bxSi 0x10)) 3) = true := by decide

theorem test_decode_portsFlagsPrefixes :
    (dec [0x26] .prefixEs 1 &&
    dec [0x2E] .prefixCs 1 &&
    dec [0x36] .prefixSs 1 &&
    dec [0x3E] .prefixDs 1 &&
    dec [0x66] .prefixOpsize 1 &&
    dec [0xE4, 0x9A] (.inAlIb 0x9A) 2 &&
    dec [0xE5, 0x9A] (.inEaxIb 0x9A) 2 &&
    dec [0xE6, 0x9A] (.outIbAl 0x9A) 2 &&
    dec [0xE7, 0x9A] (.outIbEax 0x9A) 2 &&
    dec [0xEC] .inAlDx 1 &&
    dec [0xED] .inEaxDx 1 &&
    dec [0xEE] .outDxAl 1 &&
    dec [0xEF] .outDxEax 1 &&
    dec [0xF4] .hlt 1 &&
    dec [0xF5] .cmc 1 &&
    dec [0xF8] .clc 1 &&
    dec [0xF9] .stc 1 &&
    dec [0xFA] .cli 1 &&
    dec [0xFB] .sti 1) = true := by decide

/-- The operand-size prefix: a 32-bit immediate (R114), and the class `fault` (R107). -/
theorem test_decode_opsize :
    decodeUnit true [0xB8, 0x78, 0x56, 0x34, 0x12] = .done (.movRIv .r0 (.imm32 0x12345678)) 5 ∧
      decodeUnit true [0xEB, 0xFE] = .fault .form 2 := by decide

/-- The bits of a row as the opcode table numbers them: ADD Ev,Iv with match 0x8100 and ModRM 0xC3. -/
theorem test_decodeTableWord :
    decodeTableWord 16 0x81C3 = some (.addEvIv (.reg .r3) (.imm16 0)) ∧
      decodeTableWord 8 0xF4 = some .hlt := by decide

/-! ### Single steps (`spec/95_test_vectors.md`) -/

/-- The baseline state of the vectors. -/
def baseline : State :=
  { State.reset with
    regs := ⟨0, 0, 0, 0, 0x100, 0, 0, 0⟩
    sregs := ⟨0x4000, 0x1000, 0x2000, 0x3000⟩
    ip := 0x100 }

/-- `s` with bytes at a physical address. -/
def putMem (s : State) (a : Nat) (bs : List Byte) : State := { s with mem := s.mem.writeBytes a bs }

/-- One step of `s` with `code` at CS:ip gives a next state with the property. -/
def gives (code : List Byte) (s : State) (p : State → Bool) : Bool :=
  match step (s.placeBytes s.sregs.cs s.ip code) with
  | .next t => p t
  | .fault _ => false
  | .refused _ => false

/-- V102: MOV AX,BX (upper half kept) (rule R150, 10_state.md rule R21). -/
theorem test_V102 : gives [0x89, 0xD8] { baseline with
      regs := ⟨0xAAAA5555, 0, 0, 0x11112222, 0x100, 0, 0, 0⟩ } (
    fun t => t.regs.eax == 0xAAAA2222 && t.ip == 0x102 && t.flags == baseline.flags) = true := by decide

/-- V103: MOV [BX+SI+0x10],CL (rule R150, rule R110). -/
theorem test_V103 : gives [0x88, 0x48, 0x10] { baseline with
      regs := ⟨0, 0xAB5A, 0, 0x100, 0x100, 0, 0x20, 0⟩ } (
    fun t => t.ip == 0x103 && t.mem.read 0x30130 == 0x5A && t.flags == baseline.flags) = true := by decide

/-- V105: MOV BX,[BX] (rule R151). -/
theorem test_V105 : gives [0x8B, 0x1F] (putMem { baseline with
      regs := ⟨0, 0, 0, 0x200, 0x100, 0, 0, 0⟩ } 0x30200 [0x78, 0x56]) (
    fun t => t.regs.ebx == 0x5678 && t.ip == 0x102 && t.flags == baseline.flags) = true := by decide

/-- V106: MOV AH,0x7F (rule R152). -/
theorem test_V106 : gives [0xB4, 0x7F] { baseline with
      regs := ⟨0x1122, 0, 0, 0, 0x100, 0, 0, 0⟩ } (
    fun t => t.regs.eax == 0x7F22 && t.ip == 0x102 && t.flags == baseline.flags) = true := by decide

/-- V108: MOV word [0x2000],0xABCD (rule R153). -/
theorem test_V108 : gives [0xC7, 0x06, 0x00, 0x20, 0xCD, 0xAB] baseline (
    fun t => t.ip == 0x106 && t.mem.read 0x32000 == 0xCD && t.mem.read 0x32001 == 0xAB && t.flags ==
      baseline.flags) = true := by decide

/-- V109: MOV byte [BP+2],0x99 (rule R153, rule R110 (SS default)). -/
theorem test_V109 : gives [0xC6, 0x46, 0x02, 0x99] { baseline with
      regs := ⟨0, 0, 0, 0, 0x100, 0x80, 0, 0⟩ } (
    fun t => t.ip == 0x104 && t.mem.read 0x20082 == 0x99 && t.flags == baseline.flags) = true := by decide

/-- V110: MOV AX,[0x0500] (rule R154). -/
theorem test_V110 : gives [0xA1, 0x00, 0x05] (putMem baseline 0x30500 [0xEF, 0xBE]) (
    fun t => t.regs.eax == 0xBEEF && t.ip == 0x103 && t.flags == baseline.flags) = true := by decide

/-- V111: MOV ES:[0x0010],AL (rule R155, rule R111). -/
theorem test_V111 : gives [0x26, 0xA2, 0x10, 0x00] { baseline with
      regs := ⟨0x41, 0, 0, 0, 0x100, 0, 0, 0⟩
      sregs := ⟨0xB800, 0x1000, 0x2000, 0x3000⟩ } (
    fun t => t.ip == 0x104 && t.mem.read 0xB8010 == 0x41 && t.flags == baseline.flags) = true := by decide

/-- V112: MOV AX,DS (rule R156). -/
theorem test_V112 : gives [0x8C, 0xD8] { baseline with
      regs := ⟨0xFFFFFFFF, 0, 0, 0, 0x100, 0, 0, 0⟩
      sregs := ⟨0x4000, 0x1000, 0x2000, 0x40⟩ } (
    fun t => t.regs.eax == 0xFFFF0040 && t.ip == 0x102 && t.flags == baseline.flags) = true := by decide

/-- V113: MOV DS,AX (rule R157). -/
theorem test_V113 : gives [0x8E, 0xD8] { baseline with
      regs := ⟨0x1000, 0, 0, 0, 0x100, 0, 0, 0⟩ } (
    fun t => t.sregs.ds == 0x1000 && t.ip == 0x102 && t.flags == baseline.flags) = true := by decide

/-- V114: MOV [0xFFFF],AX (segment wrap) (rule R155, 20_memory.md rule R67). -/
theorem test_V114 : gives [0xA3, 0xFF, 0xFF] { baseline with
      regs := ⟨0xBEEF, 0, 0, 0, 0x100, 0, 0, 0⟩ } (
    fun t => t.ip == 0x103 && t.mem.read 0x30000 == 0xBE && t.mem.read 0x3FFFF == 0xEF && t.flags ==
      baseline.flags) = true := by decide

/-- V115: XCHG CX,BX (rule R160). -/
theorem test_V115 : gives [0x87, 0xD9] { baseline with
      regs := ⟨0, 1, 0, 2, 0x100, 0, 0, 0⟩ } (
    fun t => t.regs.ecx == 0x2 && t.regs.ebx == 0x1 && t.ip == 0x102 && t.flags == baseline.flags) = true := by
      decide

/-- V116: XCHG [SI],AL (rule R160). -/
theorem test_V116 : gives [0x86, 0x04] (putMem { baseline with
      regs := ⟨0x11, 0, 0, 0, 0x100, 0, 0x40, 0⟩ } 0x30040 [0x22]) (
    fun t => t.regs.eax == 0x22 && t.ip == 0x102 && t.mem.read 0x30040 == 0x11 && t.flags == baseline.flags) =
      true := by decide

/-- V118: XCHG EAX,EDI (rule R161). -/
theorem test_V118 : gives [0x66, 0x97] { baseline with
      regs := ⟨0x11112222, 0, 0, 0, 0x100, 0, 0, 0x33334444⟩ } (
    fun t => t.regs.eax == 0x33334444 && t.regs.edi == 0x11112222 && t.ip == 0x102 && t.flags == baseline.flags) =
      true := by decide

/-- V119: LEA AX,[BX+5] (rule R162). -/
theorem test_V119 : gives [0x8D, 0x47, 0x05] { baseline with
      regs := ⟨0, 0, 0, 0xFFFE, 0x100, 0, 0, 0⟩ } (
    fun t => t.regs.eax == 0x3 && t.ip == 0x103 && t.flags == baseline.flags) = true := by decide

/-- V122: XLAT (offset wraps) (rule R163). -/
theorem test_V122 : gives [0xD7] (putMem { baseline with
      regs := ⟨2, 0, 0, 0xFFFF, 0x100, 0, 0, 0⟩ } 0x30001 [0x77]) (
    fun t => t.regs.eax == 0x77 && t.ip == 0x101 && t.flags == baseline.flags) = true := by decide

/-- V124: CWDE (rule R164). -/
theorem test_V124 : gives [0x66, 0x98] { baseline with
      regs := ⟨0x12348000, 0, 0, 0, 0x100, 0, 0, 0⟩ } (
    fun t => t.regs.eax == 0xFFFF8000 && t.ip == 0x102 && t.flags == baseline.flags) = true := by decide

/-- V125: CWD (rule R165). -/
theorem test_V125 : gives [0x99] { baseline with
      regs := ⟨0x8000, 0, 0x1234, 0, 0x100, 0, 0, 0⟩ } (
    fun t => t.regs.edx == 0xFFFF && t.ip == 0x101 && t.flags == baseline.flags) = true := by decide

/-- V127: LAHF (rule R166). -/
theorem test_V127 : gives [0x9F] { baseline with
      flags := ⟨true, false, true, false, true, true, true⟩ } (
    fun t => t.regs.eax == 0x9300 && t.ip == 0x101 && t.flags == ⟨true, false, true, false, true, true, true⟩) =
      true := by decide

/-- V128: SAHF (rule R167). -/
theorem test_V128 : gives [0x9E] { baseline with
      regs := ⟨0xFF00, 0, 0, 0, 0x100, 0, 0, 0⟩
      flags := ⟨false, false, false, false, false, true, false⟩ } (
    fun t => t.ip == 0x101 && t.flags.cf && t.flags.pf && t.flags.af && t.flags.zf && t.flags.sf && t.flags.ofl &&
      !t.flags.ifl) = true := by decide

/-- V129: NOP (rule R168). -/
theorem test_V129 : gives [0x90] { baseline with
      flags := ⟨true, false, false, true, false, false, false⟩ } (
    fun t => t.ip == 0x101 && t.flags == ⟨true, false, false, true, false, false, false⟩) = true := by decide

/-- V202: ADD AL,0x80 (rule R210). -/
theorem test_V202 : gives [0x04, 0x80] { baseline with
      regs := ⟨0x1280, 0, 0, 0, 0x100, 0, 0, 0⟩ } (
    fun t => t.regs.eax == 0x1200 && t.ip == 0x102 && t.flags.cf && t.flags.pf && !t.flags.af && t.flags.zf &&
      !t.flags.sf && t.flags.ofl && !t.flags.ifl) = true := by decide

/-- V207: OR AL,BL (rule R211). -/
theorem test_V207 : gives [0x08, 0xD8] { baseline with
      regs := ⟨0xF, 0, 0, 0xF0, 0x100, 0, 0, 0⟩
      flags := ⟨true, false, true, false, false, true, false⟩ } (
    fun t => t.regs.eax == 0xFF && t.ip == 0x102 && !t.flags.cf && t.flags.pf && !t.flags.af && !t.flags.zf &&
      t.flags.sf && !t.flags.ofl && !t.flags.ifl) = true := by decide

/-- V208: ADC AL,0 (rule R212). -/
theorem test_V208 : gives [0x14, 0x00] { baseline with
      regs := ⟨0xFF, 0, 0, 0, 0x100, 0, 0, 0⟩
      flags := ⟨true, false, false, false, false, false, false⟩ } (
    fun t => t.regs.eax == 0x0 && t.ip == 0x102 && t.flags.cf && t.flags.pf && t.flags.af && t.flags.zf &&
      !t.flags.sf && !t.flags.ofl && !t.flags.ifl) = true := by decide

/-- V210: SBB AL,0xFF (rule R213). -/
theorem test_V210 : gives [0x1C, 0xFF] { baseline with
      flags := ⟨true, false, false, false, false, false, false⟩ } (
    fun t => t.ip == 0x102 && t.flags.cf && t.flags.pf && t.flags.af && t.flags.zf && !t.flags.sf && !t.flags.ofl
      && !t.flags.ifl) = true := by decide

/-- V212: AND BX,0x000F (rule R214 (source example)). -/
theorem test_V212 : gives [0x81, 0xE3, 0x0F, 0x00] { baseline with
      regs := ⟨0, 0, 0, 0xF0, 0x100, 0, 0, 0⟩
      flags := ⟨true, false, true, false, true, true, false⟩ } (
    fun t => t.regs.ebx == 0x0 && t.ip == 0x104 && !t.flags.cf && t.flags.pf && !t.flags.af && t.flags.zf &&
      !t.flags.sf && !t.flags.ofl && !t.flags.ifl) = true := by decide

/-- V216: SUB AX,AX (rule R215). -/
theorem test_V216 : gives [0x29, 0xC0] { baseline with
      regs := ⟨0x1234, 0, 0, 0, 0x100, 0, 0, 0⟩
      flags := ⟨true, false, false, false, false, false, false⟩ } (
    fun t => t.regs.eax == 0x0 && t.ip == 0x102 && !t.flags.cf && t.flags.pf && !t.flags.af && t.flags.zf &&
      !t.flags.sf && !t.flags.ofl && !t.flags.ifl) = true := by decide

/-- V218: XOR AX,AX (rule R216). -/
theorem test_V218 : gives [0x31, 0xC0] { baseline with
      regs := ⟨0x1234, 0, 0, 0, 0x100, 0, 0, 0⟩
      flags := ⟨true, false, false, false, false, true, false⟩ } (
    fun t => t.regs.eax == 0x0 && t.ip == 0x102 && !t.flags.cf && t.flags.pf && !t.flags.af && t.flags.zf &&
      !t.flags.sf && !t.flags.ofl && !t.flags.ifl) = true := by decide

/-- V222: CMP AX,BX (signed less) (rule R217). -/
theorem test_V222 : gives [0x39, 0xD8] { baseline with
      regs := ⟨0xFFFF, 0, 0, 1, 0x100, 0, 0, 0⟩ } (
    fun t => t.ip == 0x102 && !t.flags.cf && !t.flags.pf && !t.flags.af && !t.flags.zf && t.flags.sf &&
      !t.flags.ofl && !t.flags.ifl) = true := by decide

/-- V226: TEST BX,0x8000 (rule R218). -/
theorem test_V226 : gives [0xF7, 0xC3, 0x00, 0x80] { baseline with
      regs := ⟨0, 0, 0, 0x7FFF, 0x100, 0, 0, 0⟩ } (
    fun t => t.ip == 0x104 && !t.flags.cf && t.flags.pf && !t.flags.af && t.flags.zf && !t.flags.sf &&
      !t.flags.ofl && !t.flags.ifl) = true := by decide

/-- V229: INC AX (signed overflow) (rule R220). -/
theorem test_V229 : gives [0x40] { baseline with
      regs := ⟨0x7FFF, 0, 0, 0, 0x100, 0, 0, 0⟩ } (
    fun t => t.regs.eax == 0x8000 && t.ip == 0x101 && !t.flags.cf && t.flags.pf && t.flags.af && !t.flags.zf &&
      t.flags.sf && t.flags.ofl && !t.flags.ifl) = true := by decide

/-- V232: DEC AX (rule R221). -/
theorem test_V232 : gives [0x48] baseline (
    fun t => t.regs.eax == 0xFFFF && t.ip == 0x101 && !t.flags.cf && t.flags.pf && t.flags.af && !t.flags.zf &&
      t.flags.sf && !t.flags.ofl && !t.flags.ifl) = true := by decide

/-- V236: NEG AL (0x80) (rule R222). -/
theorem test_V236 : gives [0xF6, 0xD8] { baseline with
      regs := ⟨0x80, 0, 0, 0, 0x100, 0, 0, 0⟩ } (
    fun t => t.ip == 0x102 && t.flags.cf && !t.flags.pf && !t.flags.af && !t.flags.zf && t.flags.sf && t.flags.ofl
      && !t.flags.ifl) = true := by decide

/-- V238: NOT AL (rule R223). -/
theorem test_V238 : gives [0xF6, 0xD0] { baseline with
      regs := ⟨0xF, 0, 0, 0, 0x100, 0, 0, 0⟩
      flags := ⟨true, false, false, true, false, false, false⟩ } (
    fun t => t.regs.eax == 0xF0 && t.ip == 0x102 && t.flags == ⟨true, false, false, true, false, false, false⟩) =
      true := by decide

/-- V241: MUL BL (0xFF*0xFF) (rule R230). -/
theorem test_V241 : gives [0xF6, 0xE3] { baseline with
      regs := ⟨0xFF, 0, 0, 0xFF, 0x100, 0, 0, 0⟩ } (
    fun t => t.regs.eax == 0xFE01 && t.ip == 0x102 && t.flags.cf && t.flags.ofl && !t.flags.ifl) = true := by
      decide

/-- V247: IMUL BL (-128 * -1) (rule R231). -/
theorem test_V247 : gives [0xF6, 0xEB] { baseline with
      regs := ⟨0x80, 0, 0, 0xFF, 0x100, 0, 0, 0⟩ } (
    fun t => t.ip == 0x102 && t.flags.cf && t.flags.ofl && !t.flags.ifl) = true := by decide

/-- V252: DIV EBX (rule R232). -/
theorem test_V252 : gives [0x66, 0xF7, 0xF3] { baseline with
      regs := ⟨0x186A0, 0, 0, 7, 0x100, 0, 0, 0⟩ } (
    fun t => t.regs.eax == 0x37CD && t.regs.edx == 0x5 && t.ip == 0x103 && !t.flags.ifl) = true := by decide

/-- V257: IDIV BL (-128 / 1) (rule R233). -/
theorem test_V257 : gives [0xF6, 0xFB] { baseline with
      regs := ⟨0xFF80, 0, 0, 1, 0x100, 0, 0, 0⟩ } (
    fun t => t.regs.eax == 0x80 && t.ip == 0x102 && !t.flags.ifl) = true := by decide

/-- V300: ROL AL,1 (rule R262). -/
theorem test_V300 : gives [0xD0, 0xC0] { baseline with
      regs := ⟨0x81, 0, 0, 0, 0x100, 0, 0, 0⟩ } (
    fun t => t.regs.eax == 0x3 && t.ip == 0x102 && t.flags.cf && !t.flags.pf && !t.flags.af && !t.flags.zf &&
      !t.flags.sf && t.flags.ofl && !t.flags.ifl) = true := by decide

/-- V305: ROR AX,CL (cnt 4) (rule R263). -/
theorem test_V305 : gives [0xD3, 0xC8] { baseline with
      regs := ⟨0x1234, 4, 0, 0, 0x100, 0, 0, 0⟩ } (
    fun t => t.regs.eax == 0x4123 && t.ip == 0x102 && !t.flags.cf && !t.flags.pf && !t.flags.af && !t.flags.zf &&
      !t.flags.sf && !t.flags.ifl) = true := by decide

/-- V308: RCL AL,CL (cnt 9: identity) (rule R264). -/
theorem test_V308 : gives [0xD2, 0xD0] { baseline with
      regs := ⟨0x5A, 9, 0, 0, 0x100, 0, 0, 0⟩
      flags := ⟨true, false, false, false, false, false, false⟩ } (
    fun t => t.ip == 0x102 && t.flags.cf && !t.flags.pf && !t.flags.af && !t.flags.zf && !t.flags.sf &&
      !t.flags.ifl) = true := by decide

/-- V312: RCR AX,CL (cnt 17: identity) (rule R265). -/
theorem test_V312 : gives [0xD3, 0xD8] { baseline with
      regs := ⟨0x1234, 0x11, 0, 0, 0x100, 0, 0, 0⟩ } (
    fun t => t.ip == 0x102 && !t.flags.cf && !t.flags.pf && !t.flags.af && !t.flags.zf && !t.flags.sf &&
      !t.flags.ifl) = true := by decide

/-- V318: SHL EAX,31 (rule R266). -/
theorem test_V318 : gives [0x66, 0xC1, 0xE0, 0x1F] { baseline with
      regs := ⟨3, 0, 0, 0, 0x100, 0, 0, 0⟩ } (
    fun t => t.regs.eax == 0x80000000 && t.ip == 0x104 && t.flags.cf && t.flags.pf && !t.flags.zf && t.flags.sf &&
      !t.flags.ifl) = true := by decide

/-- V322: SHR AX,CL (cnt 16) (rule R267). -/
theorem test_V322 : gives [0xD3, 0xE8] { baseline with
      regs := ⟨0x8000, 0x10, 0, 0, 0x100, 0, 0, 0⟩ } (
    fun t => t.regs.eax == 0x0 && t.ip == 0x102 && t.flags.pf && t.flags.zf && !t.flags.sf && !t.flags.ifl) = true
      := by decide

/-- V326: SAR AL,CL (cnt 31, negative) (rule R268). -/
theorem test_V326 : gives [0xD2, 0xF8] { baseline with
      regs := ⟨0x80, 0x1F, 0, 0, 0x100, 0, 0, 0⟩ } (
    fun t => t.regs.eax == 0xFF && t.ip == 0x102 && t.flags.cf && t.flags.pf && !t.flags.zf && t.flags.sf &&
      !t.flags.ifl) = true := by decide

/-- V401: PUSH SP (rule R302 (D17)). -/
theorem test_V401 : gives [0x54] baseline (
    fun t => t.regs.esp == 0xFE && t.ip == 0x101 && t.mem.read 0x200FE == 0x00 && t.mem.read 0x200FF == 0x01 &&
      t.flags == baseline.flags) = true := by decide

/-- V405: PUSH 0x1234 (rule R304). -/
theorem test_V405 : gives [0x68, 0x34, 0x12] baseline (
    fun t => t.regs.esp == 0xFE && t.ip == 0x103 && t.mem.read 0x200FE == 0x34 && t.mem.read 0x200FF == 0x12 &&
      t.flags == baseline.flags) = true := by decide

/-- V411: POP word [0x0500] (rule R305). -/
theorem test_V411 : gives [0x8F, 0x06, 0x00, 0x05] (putMem { baseline with
      regs := ⟨0, 0, 0, 0, 0xFE, 0, 0, 0⟩ } 0x200FE [0xEF, 0xBE]) (
    fun t => t.regs.esp == 0x100 && t.ip == 0x104 && t.mem.read 0x30500 == 0xEF && t.mem.read 0x30501 == 0xBE &&
      t.flags == baseline.flags) = true := by decide

/-- V414: PUSHF (rule R308). -/
theorem test_V414 : gives [0x9C] { baseline with
      flags := ⟨true, false, false, true, false, false, true⟩ } (
    fun t => t.regs.esp == 0xFE && t.ip == 0x101 && t.mem.read 0x200FE == 0x43 && t.mem.read 0x200FF == 0x02 &&
      t.flags == ⟨true, false, false, true, false, false, true⟩) = true := by decide

/-- V416: POPF (reserved bits set: ignored) (rule R309, 10_state.md rule R30). -/
theorem test_V416 : gives [0x9D] (putMem { baseline with
      regs := ⟨0, 0, 0, 0, 0xFE, 0, 0, 0⟩ } 0x200FE [0x2A, 0xF0]) (
    fun t => t.regs.esp == 0x100 && t.ip == 0x101 && t.flags == baseline.flags) = true := by decide

/-- V501: JMP near +0x100 (rule R331). -/
theorem test_V501 : gives [0xE9, 0x00, 0x01] baseline (
    fun t => t.ip == 0x203 && t.flags == baseline.flags) = true := by decide

/-- V503: JMP BX (rule R332). -/
theorem test_V503 : gives [0xFF, 0xE3] { baseline with
      regs := ⟨0, 0, 0, 0x1234, 0x100, 0, 0, 0⟩ } (
    fun t => t.ip == 0x1234 && t.flags == baseline.flags) = true := by decide

/-- V506: JE -2 taken (rule R338). -/
theorem test_V506 : gives [0x74, 0xFE] { baseline with
      flags := ⟨false, false, false, true, false, false, false⟩ } (
    fun t => t.ip == 0x100 && t.flags == ⟨false, false, false, true, false, false, false⟩) = true := by decide

/-- V511: JL (SF=1 OF=0) (rule R346). -/
theorem test_V511 : gives [0x7C, 0x02] { baseline with
      flags := ⟨false, false, false, false, true, false, false⟩ } (
    fun t => t.ip == 0x104 && t.flags == ⟨false, false, false, false, true, false, false⟩) = true := by decide

/-- V518: JCXZ (CX=0, ECX upper set) (rule R350). -/
theorem test_V518 : gives [0xE3, 0x02] { baseline with
      regs := ⟨0, 0x10000, 0, 0, 0x100, 0, 0, 0⟩ } (
    fun t => t.ip == 0x104 && t.flags == baseline.flags) = true := by decide

/-- V520: LOOP (CX=5) (rule R351). -/
theorem test_V520 : gives [0xE2, 0xFC] { baseline with
      regs := ⟨0, 5, 0, 0, 0x100, 0, 0, 0⟩
      ip := 0x104 } (
    fun t => t.regs.ecx == 0x4 && t.ip == 0x102 && t.flags == baseline.flags) = true := by decide

/-- V523: LOOPE (ZF=0) (rule R352). -/
theorem test_V523 : gives [0xE1, 0xFC] { baseline with
      regs := ⟨0, 5, 0, 0, 0x100, 0, 0, 0⟩
      ip := 0x104 } (
    fun t => t.regs.ecx == 0x4 && t.ip == 0x106 && t.flags == baseline.flags) = true := by decide

/-- V525: CALL +0x10 (rule R355). -/
theorem test_V525 : gives [0xE8, 0x10, 0x00] { baseline with
      regs := ⟨0, 0, 0, 0, 0x200, 0, 0, 0⟩ } (
    fun t => t.regs.esp == 0x1FE && t.ip == 0x113 && t.mem.read 0x201FE == 0x03 && t.mem.read 0x201FF == 0x01 &&
      t.flags == baseline.flags) = true := by decide

/-- V529: CALL 2000:0300 (rule R358). -/
theorem test_V529 : gives [0x9A, 0x00, 0x03, 0x00, 0x20] { baseline with
      regs := ⟨0, 0, 0, 0, 0x200, 0, 0, 0⟩ } (
    fun t => t.regs.esp == 0x1FC && t.sregs.cs == 0x2000 && t.ip == 0x300 && t.mem.read 0x201FC == 0x05 &&
      t.mem.read 0x201FD == 0x01 && t.mem.read 0x201FE == 0x00 && t.mem.read 0x201FF == 0x10 && t.flags ==
      baseline.flags) = true := by decide

/-- V531: RET 4 (rule R361). -/
theorem test_V531 : gives [0xC2, 0x04, 0x00] (putMem { baseline with
      regs := ⟨0, 0, 0, 0, 0x1FA, 0, 0, 0⟩ } 0x201FA [0x03, 0x01]) (
    fun t => t.regs.esp == 0x200 && t.ip == 0x103 && t.flags == baseline.flags) = true := by decide

/-- V532: RETF (rule R362). -/
theorem test_V532 : gives [0xCB] (putMem { baseline with
      regs := ⟨0, 0, 0, 0, 0x1FC, 0, 0, 0⟩ } 0x201FC [0x05, 0x01, 0x00, 0x20]) (
    fun t => t.regs.esp == 0x200 && t.sregs.cs == 0x2000 && t.ip == 0x105 && t.flags == baseline.flags) = true :=
      by decide

/-- V534: INT 0x21 (rule R371, 60_exceptions.md rule R520). -/
theorem test_V534 : gives [0xCD, 0x21] (putMem { baseline with
      flags := ⟨true, false, false, false, false, false, true⟩ } 0x84 [0x00, 0x04, 0x50, 0x00]) (
    fun t => t.regs.esp == 0xFA && t.sregs.cs == 0x50 && t.ip == 0x400 && t.flags.cf && !t.flags.pf && !t.flags.af
      && !t.flags.zf && !t.flags.sf && !t.flags.ofl && !t.flags.ifl && t.mem.read 0x200FA == 0x02 && t.mem.read
      0x200FB == 0x01 && t.mem.read 0x200FC == 0x00 && t.mem.read 0x200FD == 0x10 && t.mem.read 0x200FE == 0x03 &&
      t.mem.read 0x200FF == 0x02) = true := by decide

/-- V536: INTO (OF=1) (rule R372). -/
theorem test_V536 : gives [0xCE] (putMem { baseline with
      flags := ⟨false, false, false, false, false, true, false⟩ } 0x10 [0x20, 0x00, 0x60, 0x00]) (
    fun t => t.regs.esp == 0xFA && t.sregs.cs == 0x60 && t.ip == 0x20 && t.mem.read 0x200FA == 0x01 && t.mem.read
      0x200FB == 0x01 && t.mem.read 0x200FC == 0x00 && t.mem.read 0x200FD == 0x10 && t.mem.read 0x200FE == 0x02 &&
      t.mem.read 0x200FF == 0x08 && t.flags == ⟨false, false, false, false, false, true, false⟩) = true := by
      decide

/-- V538: IRET (rule R373). -/
theorem test_V538 : gives [0xCF] (putMem { baseline with
      regs := ⟨0, 0, 0, 0, 0xFA, 0, 0, 0⟩ } 0x200FA [0x02, 0x01, 0x00, 0x10, 0x02, 0x02]) (
    fun t => t.regs.esp == 0x100 && t.ip == 0x102 && !t.flags.cf && !t.flags.pf && !t.flags.af && !t.flags.zf &&
      !t.flags.sf && !t.flags.ofl && t.flags.ifl) = true := by decide

/-- V600: IN AL,0x60 (unmapped) (rule R400, rule R413). -/
theorem test_V600 : gives [0xE4, 0x60] { baseline with
      regs := ⟨0x1200, 0, 0, 0, 0x100, 0, 0, 0⟩ } (
    fun t => t.regs.eax == 0x12FF && t.ip == 0x102 && t.flags == baseline.flags) = true := by decide

/-- V606: OUT 0x80,AL (unmapped) (rule R402, rule R414). -/
theorem test_V606 : gives [0xE6, 0x80] { baseline with
      regs := ⟨0x55, 0, 0, 0, 0x100, 0, 0, 0⟩ } (
    fun t => t.ip == 0x102 && t.flags == baseline.flags) = true := by decide

/-- V610: CLC (rule R450). -/
theorem test_V610 : gives [0xF8] { baseline with
      flags := ⟨true, false, false, true, false, false, false⟩ } (
    fun t => t.ip == 0x101 && !t.flags.cf && !t.flags.pf && !t.flags.af && t.flags.zf && !t.flags.sf &&
      !t.flags.ofl && !t.flags.ifl) = true := by decide

/-- V611: STC (rule R451). -/
theorem test_V611 : gives [0xF9] baseline (
    fun t => t.ip == 0x101 && t.flags.cf && !t.flags.pf && !t.flags.af && !t.flags.zf && !t.flags.sf &&
      !t.flags.ofl && !t.flags.ifl) = true := by decide

/-- V612: CMC (rule R452). -/
theorem test_V612 : gives [0xF5] { baseline with
      flags := ⟨true, false, false, false, false, false, false⟩ } (
    fun t => t.ip == 0x101 && !t.flags.cf && !t.flags.pf && !t.flags.af && !t.flags.zf && !t.flags.sf &&
      !t.flags.ofl && !t.flags.ifl) = true := by decide

/-- V613: CLI (rule R453). -/
theorem test_V613 : gives [0xFA] { baseline with
      flags := ⟨false, false, false, false, false, false, true⟩ } (
    fun t => t.ip == 0x101 && !t.flags.cf && !t.flags.pf && !t.flags.af && !t.flags.zf && !t.flags.sf &&
      !t.flags.ofl && !t.flags.ifl) = true := by decide

/-- V615: HLT (rule R457). -/
theorem test_V615 : gives [0xF4] baseline (
    fun t => t.ip == 0x101 && t.halted && t.flags == baseline.flags) = true := by decide

/-- V800: MOV AL,[0x0010] with DS=FFFF, gate disabled (20_memory.md rule R62 (source property)). -/
theorem test_V800 : gives [0xA0, 0x10, 0x00] (putMem (putMem { baseline with
      sregs := ⟨0x4000, 0x1000, 0x2000, 0xFFFF⟩ } 0x0 [0x11]) 0x100000 [0x22]) (
    fun t => t.regs.eax == 0x11 && t.ip == 0x103 && t.flags == baseline.flags) = true := by decide

/-- V901: the same with IF=0 (rule R501). -/
theorem test_V901 : gives [0x90] { baseline with
      pending := [1]
      lineOf := [(100, 1)] } (
    fun t => t.ip == 0x101 && t.flags == baseline.flags) = true := by decide

/-- V904: line 8 pending (rule R535). -/
theorem test_V904 : gives [0x90] (putMem { baseline with
      flags := ⟨false, false, false, false, false, false, true⟩
      pending := [8]
      lineOf := [(100, 8)] } 0x1C0 [0x40, 0x03, 0x00, 0x10]) (
    fun t => t.regs.esp == 0xFA && t.ip == 0x340 && !t.flags.cf && !t.flags.pf && !t.flags.af && !t.flags.zf &&
      !t.flags.sf && !t.flags.ofl && !t.flags.ifl && t.mem.read 0x200FA == 0x00 && t.mem.read 0x200FB == 0x01 &&
      t.mem.read 0x200FC == 0x00 && t.mem.read 0x200FD == 0x10 && t.mem.read 0x200FE == 0x02 && t.mem.read 0x200FF
      == 0x02) = true := by decide

/-- V905: DIV BL, BL=0 (rule R512, 41_arithmetic_logic.md rule R232). -/
theorem test_V905 : gives [0xF6, 0xF3] (putMem { baseline with
      regs := ⟨0x64, 0, 0, 0, 0x100, 0, 0, 0⟩
      flags := ⟨false, false, false, true, false, false, true⟩ } 0x0 [0x00, 0x02, 0x00, 0x10]) (
    fun t => t.regs.esp == 0xFA && t.ip == 0x200 && !t.flags.cf && !t.flags.pf && !t.flags.af && t.flags.zf &&
      !t.flags.sf && !t.flags.ofl && !t.flags.ifl && t.mem.read 0x200FA == 0x00 && t.mem.read 0x200FB == 0x01 &&
      t.mem.read 0x200FC == 0x00 && t.mem.read 0x200FD == 0x10 && t.mem.read 0x200FE == 0x42 && t.mem.read 0x200FF
      == 0x02) = true := by decide

/-- V907: IDIV BX, DX:AX=FFFF8000 (-32768) by -1 (rule R512, 41_arithmetic_logic.md rule R233). -/
theorem test_V907 : gives [0xF7, 0xFB] (putMem { baseline with
      regs := ⟨0x8000, 0, 0xFFFF, 0xFFFF, 0x100, 0, 0, 0⟩ } 0x0 [0x00, 0x02, 0x00, 0x10]) (
    fun t => t.regs.esp == 0xFA && t.ip == 0x200 && t.mem.read 0x200FA == 0x00 && t.mem.read 0x200FB == 0x01 &&
      t.mem.read 0x200FC == 0x00 && t.mem.read 0x200FD == 0x10 && t.mem.read 0x200FE == 0x02 && t.mem.read 0x200FF
      == 0x00 && t.flags == baseline.flags) = true := by decide

/-- V910: halted, IF=1, line 0 pending (rule R500, rule R520, 46_flag_and_system.md rule R457). -/
theorem test_V910 : gives [0x90] (putMem { baseline with
      ip := 0x102
      flags := ⟨false, false, false, false, false, false, true⟩
      halted := true
      pending := [0]
      lineOf := [(100, 0)] } 0x20 [0x60, 0x03, 0x00, 0x10]) (
    fun t => t.regs.esp == 0xFA && t.ip == 0x360 && !t.flags.cf && !t.flags.pf && !t.flags.af && !t.flags.zf &&
      !t.flags.sf && !t.flags.ofl && !t.flags.ifl && t.mem.read 0x200FA == 0x02 && t.mem.read 0x200FB == 0x01 &&
      t.mem.read 0x200FC == 0x00 && t.mem.read 0x200FD == 0x10 && t.mem.read 0x200FE == 0x02 && t.mem.read 0x200FF
      == 0x02 && !t.halted) = true := by decide

/-- V415: POPF refuses an image with bit 8 set (R309, U7). -/
theorem test_popf_trap_flag : exec .popf (putMem { baseline with regs := ⟨0, 0, 0, 0, 0xFE, 0, 0, 0⟩ } 0x200FE
    [0x00, 0x01]) = .refused .unsupportedFlagBit := by rfl

/-- Group 2 member 6 is no instruction: under policy `halt` the run stops with the fault record (R131, R510). -/
theorem test_decode_fault : step (baseline.placeBytes 0x1000 0x100 [0xD0, 0xF0]) =
    .fault (.decodeFault 0x1000 0x100 [0xD0, 0xF0] .group) := by rfl

/-- V733: opcode 0x0F under policy `vector6`: interrupt 6 is entered, and the fault record is put out (R510, R511). -/
theorem test_V733 : gives [0x0F] (putMem { baseline with
      flags := ⟨false, false, false, false, false, false, true⟩
      params := { Params.default with policy := .vector6 } } 0x18 [0x00, 0x05, 0x00, 0xF0]) (
    fun t => t.regs.esp == 0xFA && t.sregs.cs == 0xF000 && t.ip == 0x500 && t.mem.read 0x200FB == 0x01 &&
      t.busLog == [.decodeFault 0x1000 0x100 [0x0F] (.opcode 0x0F)]) = true := by decide

/-- A word read that covers the watch address is flagged, as its second byte; an opcode fetch is an access (R71, R570). -/
theorem test_watch_read : gives [0x8B, 0x07] { baseline with
      regs := ⟨0, 0, 0, 0x500, 0x100, 0, 0, 0⟩
      watch := some 0x30501 } (fun t => t.trace == [⟨0x30501, .read⟩]) = true ∧
    gives [0x90] { baseline with watch := some 0x10100 } (fun t => t.trace == [⟨0x10100, .read⟩]) = true := by decide

/-- ADD [BX],CL reads the byte and writes it (R64, R65, R570). -/
theorem test_watch_readWrite : gives [0x00, 0x0F] { baseline with
      regs := ⟨0, 0, 0, 0x500, 0x100, 0, 0, 0⟩
      watch := some 0x30500 } (fun t => t.trace == [⟨0x30500, .read⟩, ⟨0x30500, .write⟩]) = true := by decide

/-- `MemWrite` of four bytes at an absolute address that no 16-bit offset bounds: with the gate disabled the last two lie
at 0 and 1 (R62, R65, R68). -/
theorem test_memWrite : (match baseline.memWrite 0x0FFFFE 4 0x12345678 with
    | .ok t _ => t.mem
    | .error _ => []) = [(0, 0x34), (1, 0x12), (0xFFFFE, 0x78), (0xFFFFF, 0x56)] := by decide

/-- A configuration-mechanism stub that has no address write yet. -/
def stubbed (replies : List DeviceReply) : State :=
  { baseline with
    owner := [(0xF8, 7)]
    devices := [(7, .stub false)]
    params := { Params.default with devices := [⟨7, .configStub [0xF8] [0xFC] ⟨[], [0xF8], false⟩, []⟩] }
    replies := replies }

/-- A write that the device does not implement leaves its state unchanged; one it implements at the address port is
remembered (R416, R422, R426). -/
theorem test_stub_write :
    (stubbed [.unimplemented]).portWrite 0xF8 1 0 =
      { stubbed [] with busLog := [.portAccessFault 7 0xF8 1, .deviceWrite 7 0xF8 1 0] } ∧
    (stubbed [.answer 0 []]).portWrite 0xF8 1 0 =
      { stubbed [] with devices := [(7, .stub true)], busLog := [.deviceWrite 7 0xF8 1 0] } := by decide

/-- A disk channel's `reset()`, outside a system reset: it asks for a line and registers its command block and, of its
control block, the port that is not shared; the primary drive is Idle (R556). -/
theorem test_disk_reset :
    let s : State := { baseline with params := { Params.default with devices :=
      [⟨7, .diskChannel .disk .none ⟨#v[0, 1, 2, 3, 4, 5, 6, 7], some [0x20, 0x21], [0x21]⟩, [14]⟩] } }
    (match s.input (.deviceReset 7) with
      | .ok t => t.lineOf == [(7, 14)] && t.owner.map (·.1) == [0, 1, 2, 3, 4, 5, 6, 7, 0x20] &&
        (match Assoc.find 7 t.devices with
          | some (.disk c) => c.slot0.state == .idle && c.slot0.status.driveReady && !c.slaveSelected
          | _ => false)
      | .error _ => false) = true := by decide

/-- An access beyond RAM_SIZE is refused (R63, V806). -/
theorem test_unbacked : exec (.movAlOb 0xFFFF) { baseline with
    sregs := ⟨0, 0, 0, 0xFFFF⟩
    a20 := true
    params := { Params.default with ramSize := 0x100000 } } = .refused .memoryRange := by rfl

/-! ### Witnesses: a state and operands that meet the hypotheses of each statement -/

/-- A state with memory behind [BX], at the stack pointer and in the vector table. -/
def w : State :=
  putMem (putMem (putMem { baseline with
      regs := ⟨0x00800080, 3, 5, 0x0500, 0x0100, 0x0600, 7, 8⟩ } 0x30500 [0x7F, 0x80, 0x34, 0x12])
    0x20100 [0x78, 0x56, 0x34, 0x12, 0x02, 0x02]) 0x84 [0x00, 0x02, 0x00, 0x10]

/-- The memory operand [BX] of the witnesses: 0x30500. -/
abbrev atBx : EOperand := .mem (.base .bx)

/-- A state of the invariant with ports, lines and memory in use, at the edges of their ranges. -/
def busy : State :=
  { baseline with
    mem := [(0, 1), (0x10FFFF, 2)]
    owner := [(0, 1), (0xFFFF, 2)]
    lineOf := [(1, 0), (2, 15)]
    pending := [0, 15] }

/-- Device actions: device 2 raises and clears its own line 15, one without a line has no effect on any; the gate goes to
the value named (R36, R422, R532, R533). -/
theorem test_device_actions :
    (busy.deviceActions 2 0 [.clear]).pending = [0] ∧
    (busy.deviceActions 2 0 [.clear, .raise]).pending = [0, 15] ∧
    busy.deviceActions 3 0 [.raise, .clear] = busy ∧
    (busy.deviceActions 3 0 [.gate true]).a20 = true ∧ (busy.deviceActions 3 0 [.gate false]).a20 = false := by decide

/-- An event of the channel goes to the selected slot alone: a command to the slave (R550, R553, R557). -/
theorem test_disk_event :
    let c := { (DiskChannel.construct .disk .disk).reset with slaveSelected := true }
    let s : State := { busy with devices := [(7, .disk c)] }
    (match Assoc.find 7 (s.deviceActions 7 0 [.disk .command]).devices with
      | some (.disk c') => c'.slot1.state == .busy && c'.slot0 == c.slot0 && c'.slaveSelected
      | _ => false) = true := by decide

/-- The inputs of a phase act in their order (R503; log 22). -/
theorem test_inputs_in_order :
    (match busy.inputs [.gate true, .update 1 [.gate false, .clear], .armWatch 5, .setBytes 9 [1]] with
      | .ok t => t == { busy with a20 := false, pending := [15], watch := some 5, mem := [(0, 1), (9, 1), (0x10FFFF, 2)] }
      | .error _ => false) = true := by decide

theorem wit_EveryStepKeepsTheInvariant : busy.Inv ∧ (∃ t, step busy = .next t) ∧ State.reset.Inv ∧
    ∃ t, step State.reset = .next t :=
  ⟨by constructor <;> decide, ⟨_, rfl⟩, by constructor <;> decide, ⟨_, rfl⟩⟩

theorem wit_SystemResetRestartsTheCpu :
    ({ busy with phases := [[.systemReset], []] } : State).phases = [.systemReset] :: [[]] := rfl

theorem wit_ResetLeavesTheStatedValues : State.reset.params.devices = [] := rfl

theorem wit_DecodeOfEncodeIsTheInstruction :
    (Instr.addEvIv (.mem (.disp16 .bp 0xFFFF)) (.imm16 0xFFFF)).wellFormed false = true ∧
    (Instr.addEvIv (.mem (.direct 0)) (.imm32 0xFFFFFFFF)).wellFormed true = true ∧
    (Instr.callAp 0xFFFF 0xFFFF).wellFormed false = true := by decide

theorem wit_EncodeOfDecodeIsTheBytes :
    decodeUnit true [0x81, 0x00, 0xFF, 0xFF, 0xFF, 0xFF, 0x90] =
      .done (.addEvIv (.mem (.base .bxSi)) (.imm32 0xFFFFFFFF)) 6 := by decide

/-- Each clause: a group member, a register form, a segment number, a row of class `fault`, 15 prefixes. -/
theorem wit_ReservedEncodingsRaiseDecodeFault :
    ((0x0F : Byte) ∈ Claims.unassigned ∧ (0xFD : Byte) ∈ Claims.unassigned) ∧
    (([0xFF], [.r7]) ∈ Claims.noMember ∧ (.mem (.disp16 .bp 0xFFFF) : EOperand).wellFormed = true ∧
      4 ≤ ([0, 0, 0, 0] : List Byte).length) ∧
    ([0xFF], [.r3, .r5]) ∈ Claims.memoryOnly ∧ ([0x8E], [.r1]) ∈ Claims.noSegment ∧
    (Claims.FaultClass (.jmpJb 0) ∧ (Instr.jmpJb 0).operandsWellFormed true = true) ∧
    (let s := baseline.placeBytes 0x1000 0x100 (List.replicate 16 0x66)
     s.noInput ∧ s.executes ∧ (List.replicate 16 (0x66 : Byte)).length = s.params.maxInsnLen + 1 ∧
      s.CodeAt (List.replicate 16 0x66) ∧
      (List.replicate 16 (0x66 : Byte)).take s.params.maxInsnLen = (List.replicate 15 Pfx.opsize).map Pfx.byte ++ [] ∧
      decodeUnit (pfxOpsize (List.replicate 15 Pfx.opsize)) [] = .short) :=
  ⟨by decide, by decide, by decide, by decide, ⟨.jmpJb 0, by decide⟩, rfl, by decide, rfl, by decide, by decide,
    rfl⟩

/-- An instruction of the greatest length that the decoder accepts: eleven prefixes and four bytes; one at the end of
the code segment, where the offset wraps. -/
theorem wit_StepRunsTheDecodedInstruction :
    (let ps := List.replicate 10 (Pfx.seg .es) ++ [.seg .ss]
     let s := baseline.placeBytes 0x1000 0x100 (ps.map Pfx.byte ++ [0x81, 0xC3, 0x34, 0x12])
     s.noInput ∧ s.executes ∧ s.CodeAt (ps.map Pfx.byte ++ [0x81, 0xC3, 0x34, 0x12]) ∧
      ps.length + 4 ≤ s.params.maxInsnLen ∧
      decodeUnit (pfxOpsize ps) [0x81, 0xC3, 0x34, 0x12] = .done (.addEvIv (.reg .r3) (.imm16 0x1234)) 4 ∧
      (Instr.addEvIv (.reg .r3) (.imm16 0x1234)).isPrefixByte = false) ∧
    (let s := ({ baseline with ip := 0xFFFF } : State).placeBytes 0x1000 0xFFFF [0x66, 0x98]
     s.noInput ∧ s.executes ∧ s.CodeAt ([Pfx.opsize].map Pfx.byte ++ [0x98]) ∧
      decodeUnit (pfxOpsize [.opsize]) [0x98] = .done .cbw 1) := by decide

theorem wit_DecodeFaultIsSurfaced :
    (let s := baseline.placeBytes 0x1000 0x100 [0x66, 0xD0, 0xF0]
     s.noInput ∧ s.executes ∧ s.CodeAt ([Pfx.opsize].map Pfx.byte ++ [0xD0, 0xF0]) ∧
      decodeUnit (pfxOpsize [.opsize]) [0xD0, 0xF0] = .fault .group 2 ∧ s.params.policy = .halt ∧
      [0x66, 0xD0, 0xF0] = ([Pfx.opsize].map Pfx.byte ++ [0xD0, 0xF0]).take ([Pfx.opsize].length + 2)) ∧
    (let s := ({ baseline with params := { Params.default with policy := .vector6 } } : State).placeBytes 0x1000 0x100
      [0xD0, 0xF0]
     s.noInput ∧ s.executes ∧ s.CodeAt ([].map Pfx.byte ++ [0xD0, 0xF0]) ∧
      decodeUnit (pfxOpsize []) [0xD0, 0xF0] = .fault .group 2 ∧ s.params.policy = .vector6 ∧
      s.segBacked s.sregs.ss (Claims.sp s - 6) 6 ∧ 4 * (6 : Byte).toNat + 3 < s.params.ramSize) := by decide

/-- Line 0 of two pending lines at its default vector, while halted; line 8, the first of the upper half; a line with an
overridden vector; and a halted cycle with nothing to take. -/
theorem wit_PendingLineIsTakenFirst :
    (let s : State := { busy with halted := true, flags := { busy.flags with ifl := true } }
     s.noInput ∧ s.flags.ifl = true ∧ 0 ∈ s.pending ∧ (∀ m ∈ s.pending, 0 ≤ m) ∧
      Assoc.find 0 s.params.vectorTable = none ∧ Claims.EntryBacked s 0x08) ∧
    (let s : State := { busy with lineOf := [(1, 8)], pending := [8], flags := { busy.flags with ifl := true } }
     s.flags.ifl = true ∧ 8 ∈ s.pending ∧ (∀ m ∈ s.pending, 8 ≤ m) ∧
      Assoc.find 8 s.params.vectorTable = none ∧ Claims.EntryBacked s 0x70) ∧
    (let s : State := { busy with
      pending := [15]
      flags := { busy.flags with ifl := true }
      params := { Params.default with vectorTable := [(15, 0xFF)] } }
     15 ∈ s.pending ∧ Assoc.find 15 s.params.vectorTable = some 0xFF ∧ Claims.EntryBacked s 0xFF) ∧
    (let s : State := { busy with halted := true }
     s.noInput ∧ s.halted = true ∧ s.flags.ifl = false) := by
  unfold Claims.EntryBacked
  decide

theorem wit_SoftwareInterruptsEnterTheirVector :
    Claims.EntryBacked w 3 ∧ Claims.EntryBacked w 0xFF ∧
    Claims.EntryBacked { w with flags := { w.flags with ofl := true } } 4 ∧ w.flags.ofl = false := by
  unfold Claims.EntryBacked
  decide

theorem wit_PopfAndIretLoadTheFlags :
    (w.segBacked w.sregs.ss (Claims.sp w) 2 ∧ w.Holds w.sregs.ss (Claims.sp w) 2 (0x5678 : Half) ∧
      (0x5678 : Half).getLsbD 8 = false ∧ (0x5678 : Half).getLsbD 10 = true) ∧
    (let s := putMem w 0x20100 [0xFF, 0xFA]
     s.Holds s.sregs.ss (Claims.sp s) 2 (0xFAFF : Half) ∧ (0xFAFF : Half).getLsbD 8 = false ∧
      (0xFAFF : Half).getLsbD 10 = false) ∧
    (w.segBacked w.sregs.ss (Claims.sp w) 6 ∧
      w.Holds w.sregs.ss (Claims.sp w) 6 ((0x0202 : Half) ++ ((0x1234 : Half) ++ (0x5678 : Half))) ∧
      (0x0202 : Half).getLsbD 8 = false ∧ (0x0202 : Half).getLsbD 10 = false) ∧
    (let s := putMem w 0x20104 [0x00, 0x01]
     s.Holds s.sregs.ss (Claims.sp s) 6 ((0x0100 : Half) ++ ((0x1234 : Half) ++ (0x5678 : Half))) ∧
      (0x0100 : Half).getLsbD 8 = true) := by decide

/-- An entry with the stack at the wrap of its segment. -/
theorem wit_IretUndoesTheEntry :
    let s : State := { w with regs := { w.regs with esp := 4 } }
    Claims.EntryBacked s 0x21 ∧ ∃ t, Claims.Enters s 0x21 s.ip t := by
  refine ⟨by unfold Claims.EntryBacked; decide, ?_⟩
  generalize hs : ({ w with regs := { w.regs with esp := 4 } } : State) = s
  rcases s.interrupt_cases 0x21 s.ip with ⟨-, -, m, -, h, -⟩ | ⟨hn, -⟩
  · exact ⟨_, _, m, rfl, by simpa [Claims.sp] using s.regs.write_wrote .w16 .r4 (s.sp - 6),
      by simpa [Claims.sp] using h⟩
  · exact absurd (by subst hs; decide) hn

theorem wit_StoreThenLoadReturnsTheValue :
    w.segBacked 0x2000 0xFFFD 4 ∧ ({ w with a20 := true } : State).segBacked 0xFFFF 0xFFFC 4 ∧
      w.absBacked 0xFFFFE 4 ∧ ({ w with a20 := true } : State).absBacked 0x10FFFC 4 := by decide

theorem wit_UnbackedAccessIsRefused :
    (let s : State := { w with params := { Params.default with ramSize := 0x30501 } }
     s.operandBacked .w16 atBx = false ∧ s.operandBacked .w8 atBx = true) ∧
    (let s : State := { w with params := { Params.default with ramSize := 0x200FF } }
     ¬ s.segBacked s.sregs.ss (Claims.sp s - BitVec.ofNat 16 Width.w16.bytes) Width.w16.bytes ∧
      ¬ s.segBacked s.sregs.ss (Claims.sp s) Width.w16.bytes ∧ ¬ s.absBacked 0x200FE 2 ∧ s.absBacked 0x200FE 1) ∧
    ({ w with params := { Params.default with ramSize := 0x10FFF0 } } : State).fullRam := by decide

/-- A load up to the last byte and one beyond; no phase to come, a phase that acts and one that is refused; devices of the
three kinds, a channel with and without a state, and an identity no device has. -/
theorem wit_BulkLoadPlacesItsBytes :
    (0x10FFFE + ([1, 2] : List Byte).length ≤ w.params.ramSize ∧ ([1, 2] : List Byte) ≠ [] ∧
      w.params.ramSize < 0x10FFFF + ([1, 2] : List Byte).length ∧ w.phases = []) ∧
    (let s : State := { w with phases := [[.gate true], []] }
     s.phases = [.gate true] :: [[]] ∧ (∃ t, ({ s with phases := [[]] } : State).inputs [.gate true] = .ok t) ∧
       ∃ t, s.input (.gate true) = .ok t) ∧
    (let s : State := { w with phases := [[.setBytes 0x10FFFF [1, 2]]] }
     s.phases = [.setBytes 0x10FFFF [1, 2]] :: [] ∧
       (∃ r, ({ s with phases := [] } : State).inputs [.setBytes 0x10FFFF [1, 2]] = .error r) ∧
       ∃ r, s.input (.setBytes 0x10FFFF [1, 2]) = .error r) ∧
    (let ports : DiskPorts := ⟨#v[0, 1, 2, 3, 4, 5, 6, 7], some [0x20, 0x21], [0x21]⟩
     let s : State := { w with
       params := { Params.default with devices := [⟨1, .blackBox ⟨[8], [8, 9], true⟩, []⟩,
         ⟨2, .configStub [0x30] [0x31] ⟨[], [0x30, 0x31], false⟩, []⟩, ⟨3, .diskChannel .disk .none ports, [14]⟩,
         ⟨4, .diskChannel .disk .none ports, [15]⟩] }
       devices := [(2, .stub true), (3, .disk (DiskChannel.construct .disk .none))] }
     (s.deviceSpec 1).isSome = true ∧ (s.deviceSpec 2).isSome = true ∧ (s.deviceSpec 3).isSome = true ∧
       (s.deviceSpec 4).isSome = true ∧ s.deviceSpec 5 = none) :=
  ⟨by decide, ⟨rfl, ⟨_, rfl⟩, ⟨_, rfl⟩⟩, ⟨rfl, ⟨_, rfl⟩, ⟨_, rfl⟩⟩, by decide⟩

theorem wit_EveryInstructionCompletesWithFullRam :
    let s := putMem w 0x20100 [0x02, 0x02]
    s.fullRam ∧ s.Holds s.sregs.ss (Claims.sp s) 2 (0x0202 : Half) ∧ (0x0202 : Half).getLsbD 8 = false ∧
      (0x0202 : Half).getLsbD 10 = false ∧ s.Holds s.sregs.ss (Claims.sp s + 4) 2 (0x0202 : Half) := by decide

theorem wit_SegmentRegistersAreWrittenOnlyByThese :
    (∃ t, exec .popDs w = .next t) ∧ ¬ Claims.WritesCs .popDs ∧ SReg.es ≠ .cs ∧
      Claims.loadsSegment .popDs ≠ some .es :=
  ⟨⟨_, rfl⟩, nofun, by decide, by decide⟩

theorem wit_FlagsAreWrittenOnlyByThese :
    (∃ t, exec (.addEbGb atBx .r0) w = .next t) ∧ ¬ Claims.WritesIf (.addEbGb atBx .r0) ∧
      (∃ t, exec (.movEbGb atBx .r0) w = .next t) ∧ Claims.KeepsFlags (.movEbGb atBx .r0) :=
  ⟨⟨_, rfl⟩, nofun, ⟨_, rfl⟩, .movEbGb _ _⟩

/-- A byte at the watch address and one beside it. -/
theorem wit_WatchAddressChangesNothing :
    let s : State := { w with watch := some 0x30500 }
    s.phys 0x30500 < s.params.ramSize ∧ s.watch = some (s.phys 0x30500) ∧ s.watch ≠ some (s.phys 0x30501) := by decide

theorem wit_WhatNoInstructionChanges :
    (∃ t, exec .sahf w = .next t) ∧ (∀ x p, ¬ Claims.ReadsPort w .sahf x p) ∧ (∀ x p, ¬ Claims.WritesPort w .sahf x p) ∧
      Instr.sahf.isPrefixByte = false ∧ Instr.sahf ≠ .hlt ∧
      ∃ t, exec .sahf { w with halted := true } = .next t ∧ t.halted = true :=
  ⟨⟨_, rfl⟩, nofun, nofun, rfl, nofun, ⟨_, rfl, rfl⟩⟩

/-- Two states that agree on the operands of an `UNDEF_FLAG` site and differ elsewhere. -/
theorem wit_UndefinedFlagsAreAFunction :
    let s : State := { w with regs := { w.regs with esi := 0xFFFF } }
    (Claims.Shifts w (.shlEbOne atBx) .shl .w8 atBx 1 ∧ Claims.Shifts s (.shlEbOne atBx) .shl .w8 atBx 1 ∧
      w.Reads .w8 atBx 0x7F ∧ s.Reads .w8 atBx 0x7F ∧ w.flags = s.flags ∧
      (∃ t, exec (.shlEbOne atBx) w = .next t) ∧ ∃ t, exec (.shlEbOne atBx) s = .next t) ∧
    (Claims.Multiplies w (.mulEb atBx) false .w8 atBx ∧ Claims.Multiplies s (.mulEb atBx) false .w8 atBx ∧
      w.regs.view .w8 .r0 = s.regs.view .w8 .r0 ∧ (∃ t, exec (.mulEb atBx) w = .next t) ∧
      ∃ t, exec (.mulEb atBx) s = .next t) ∧
    (Claims.Divides w (.divEb atBx) false .w8 atBx ∧ Claims.Divides s (.divEb atBx) false .w8 atBx ∧
      w.regs.view .w8 (Claims.accHigh .w8) = s.regs.view .w8 (Claims.accHigh .w8) ∧
      (∃ t, exec (.divEb atBx) w = .next t) ∧ ∃ t, exec (.divEb atBx) s = .next t) :=
  ⟨⟨.shlEbOne _, .shlEbOne _, by unfold State.Reads; decide, by unfold State.Reads; decide, rfl, ⟨_, rfl⟩, ⟨_, rfl⟩⟩,
    ⟨.mulEb _, .mulEb _, rfl, ⟨_, rfl⟩, ⟨_, rfl⟩⟩, ⟨.divEb _, .divEb _, rfl, ⟨_, rfl⟩, ⟨_, rfl⟩⟩⟩

/-- A two-operand instruction with a memory destination and a register source, one the other way round, and one at
width 32 with an immediate; `a` and `b` are the values read. -/
theorem wit_twoOperand (op : AluOp) (i j k : Instr)
    (h : (op, i, j, k) ∈ [(AluOp.add, .addEbGb atBx .r1, .addGbEb .r1 atBx, .addEvIbs (.reg .r0) 0xFF),
      (.adc, .adcEbGb atBx .r1, .adcGbEb .r1 atBx, .adcEvIbs (.reg .r0) 0xFF),
      (.sub, .subEbGb atBx .r1, .subGbEb .r1 atBx, .subEvIbs (.reg .r0) 0xFF),
      (.sbb, .sbbEbGb atBx .r1, .sbbGbEb .r1 atBx, .sbbEvIbs (.reg .r0) 0xFF),
      (.cmp, .cmpEbGb atBx .r1, .cmpGbEb .r1 atBx, .cmpEvIbs (.reg .r0) 0xFF),
      (.and, .andEbGb atBx .r1, .andGbEb .r1 atBx, .andEvIbs (.reg .r0) 0xFF),
      (.or, .orEbGb atBx .r1, .orGbEb .r1 atBx, .orEvIbs (.reg .r0) 0xFF),
      (.xor, .xorEbGb atBx .r1, .xorGbEb .r1 atBx, .xorEvIbs (.reg .r0) 0xFF)]) :
    (Claims.TwoOperand w i op .w8 atBx (.operand (.reg .r1)) ∧ w.operandBacked .w8 atBx = true ∧
      w.Reads .w8 atBx 0x7F ∧ (Claims.Source.operand (w := .w8) (.reg .r1)).Has w 3 ∧ ∃ t, exec i w = .next t) ∧
    (Claims.TwoOperand w j op .w8 (.reg .r1) (.operand atBx) ∧ w.Reads .w8 (.reg .r1) 3 ∧
      (Claims.Source.operand (w := .w8) atBx).Has w 0x7F) ∧
    let s : State := { w with opsizePfx := true }
    Claims.TwoOperand s k op .w32 (.reg .r0) (.value (Claims.immSigned .w32 0xFF)) ∧
      s.Reads .w32 (.reg .r0) 0x00800080 ∧
      (Claims.Source.value (w := .w32) (Claims.immSigned .w32 0xFF)).Has s 0xFFFFFFFF := by
  simp only [List.mem_cons, Prod.mk.injEq, List.not_mem_nil, or_false] at h
  rcases h with ⟨rfl, rfl, rfl, rfl⟩ | ⟨rfl, rfl, rfl, rfl⟩ | ⟨rfl, rfl, rfl, rfl⟩ | ⟨rfl, rfl, rfl, rfl⟩ |
      ⟨rfl, rfl, rfl, rfl⟩ | ⟨rfl, rfl, rfl, rfl⟩ | ⟨rfl, rfl, rfl, rfl⟩ | ⟨rfl, rfl, rfl, rfl⟩ <;>
    exact ⟨⟨by constructor, by decide, by unfold State.Reads; decide, by unfold Claims.Source.Has; exact ⟨rfl, rfl⟩,
        ⟨_, rfl⟩⟩, ⟨by constructor, rfl, by unfold Claims.Source.Has State.Reads; decide⟩, by constructor, rfl, rfl⟩

theorem wit_CarryAndOverflowReportTheRange :
    (Claims.TwoOperand w (.addEbGb atBx .r1) .add .w8 atBx (.operand (.reg .r1)) ∧ w.operandBacked .w8 atBx = true ∧
      w.Reads .w8 atBx 0x7F ∧ (Claims.Source.operand (w := .w8) (.reg .r1)).Has w 3 ∧
      ∃ t, exec (.addEbGb atBx .r1) w = .next t) ∧
    (Claims.TwoOperand w (.sbbEbGb atBx .r1) .sbb .w8 atBx (.operand (.reg .r1)) ∧
      ∃ t, exec (.sbbEbGb atBx .r1) w = .next t) :=
  ⟨⟨.addEbGb _ _, by decide, by unfold State.Reads; decide, ⟨rfl, rfl⟩, ⟨_, rfl⟩⟩, .sbbEbGb _ _, ⟨_, rfl⟩⟩

theorem wit_ConditionsAfterCmpOrderTheOperands :
    Claims.TwoOperand w (.cmpEbGb atBx .r1) .cmp .w8 atBx (.operand (.reg .r1)) ∧ w.operandBacked .w8 atBx = true ∧
      w.Reads .w8 atBx 0x7F ∧ (Claims.Source.operand (w := .w8) (.reg .r1)).Has w 3 ∧
      ∃ t, exec (.cmpEbGb atBx .r1) w = .next t :=
  ⟨.cmpEbGb _ _, by decide, by unfold State.Reads; decide, ⟨rfl, rfl⟩, ⟨_, rfl⟩⟩

theorem wit_AddAndAdcGiveTheSum :
    (AluOp.add = .add ∧ 0 = 0 ∨ AluOp.add = .adc ∧ 0 = w.flags.cf.toNat) ∧
    let s : State := { w with flags := { w.flags with cf := true } }
    Claims.TwoOperand s (.adcEbGb atBx .r1) .adc .w8 atBx (.operand (.reg .r1)) ∧ (AluOp.adc = .adc ∧
      1 = s.flags.cf.toNat) ∧ s.operandBacked .w8 atBx = true ∧ s.Reads .w8 atBx 0x7F ∧
      (Claims.Source.operand (w := .w8) (.reg .r1)).Has s 3 :=
  ⟨.inl ⟨rfl, rfl⟩, .adcEbGb _ _, ⟨rfl, rfl⟩, by decide, by unfold State.Reads; decide, rfl, rfl⟩

theorem wit_SubSbbAndCmpGiveTheDifference :
    let s : State := { w with flags := { w.flags with cf := true } }
    Claims.TwoOperand s (.sbbGbEb .r1 atBx) .sbb .w8 (.reg .r1) (.operand atBx) ∧ (AluOp.sbb = .sbb ∧
      1 = s.flags.cf.toNat) ∧ s.operandBacked .w8 (.reg .r1) = true ∧ s.Reads .w8 (.reg .r1) 3 ∧
      (Claims.Source.operand (w := .w8) atBx).Has s 0x7F :=
  ⟨.sbbGbEb _ _, ⟨rfl, rfl⟩, rfl, rfl, by unfold Claims.Source.Has State.Reads; decide⟩

theorem wit_LogicInstructionsAndTest :
    Claims.Tests w (.testEbIb atBx 0x80) .w8 atBx (.value 0x80) ∧ w.operandBacked .w8 atBx = true ∧
      w.Reads .w8 atBx 0x7F ∧ (Claims.Source.value (w := .w8) 0x80).Has w 0x80 :=
  ⟨.testEbIb _ _, by decide, by unfold State.Reads; decide, rfl⟩

theorem wit_IncAndDecKeepTheCarry :
    Claims.IncDec w (.incEb atBx) true .w8 atBx ∧ Claims.IncDec w (.decR .r3) false .w16 (.reg .r3) ∧
      w.operandBacked .w8 atBx = true ∧ w.Reads .w8 atBx 0x7F ∧ w.Reads .w16 (.reg .r3) 0x500 :=
  ⟨.incEb _, .decR _, by decide, by unfold State.Reads; decide, rfl⟩

theorem wit_NegAndNot :
    (Instr.negEb atBx = .negEb atBx ∧ Width.w8 = .w8) ∧ w.operandBacked .w8 atBx = true ∧ w.Reads .w8 atBx 0x7F ∧
      w.Reads .w16 (.reg .r0) 0x80 :=
  ⟨⟨rfl, rfl⟩, by decide, by unfold State.Reads; decide, rfl⟩

theorem wit_MulAndImulGiveTheProduct :
    Claims.Multiplies w (.mulEb atBx) false .w8 atBx ∧ Claims.Multiplies w (.imulEb atBx) true .w8 atBx ∧
      w.operandBacked .w8 atBx = true ∧ w.Reads .w8 atBx 0x7F ∧
      (0x80 * 0x7F : Int) = (w.regs.view .w8 .r0).toNat * (0x7F : Byte).toNat ∧
      (-0x80 * 0x7F : Int) = (w.regs.view .w8 .r0).toInt * (0x7F : Byte).toInt :=
  ⟨.mulEb _, .imulEb _, by decide, by unfold State.Reads; decide, by decide, by decide⟩

/-- AX = 0x0080 over 0x7F: quotient 1, remainder 1; and AX = 0x7EFF over 0x7F, where the quotient is the greatest that
fits. -/
theorem wit_DivGivesQuotientAndRemainder :
    Claims.Divides w (.divEb atBx) false .w8 atBx ∧ w.operandBacked .w8 atBx = true ∧ w.Reads .w8 atBx 0x7F ∧
    (w.regs.view .w8 (Claims.accHigh .w8)).toNat * 2 ^ 8 + (w.regs.view .w8 .r0).toNat = 0x80 ∧
    (0x7F : Byte) ≠ 0 ∧ 0x80 / (0x7F : Byte).toNat < 2 ^ 8 ∧ 0x7EFF / (0x7F : Byte).toNat = 2 ^ 8 - 1 :=
  ⟨.divEb _, by decide, by unfold State.Reads; decide, by decide, by decide, by decide, by decide⟩

/-- AX = 0xFF80 over 1: the quotient is the least that fits. -/
theorem wit_IdivRoundsTowardZero :
    let s := putMem { w with regs := { w.regs with eax := 0xFF80 } } 0x30500 [0x01]
    Claims.Divides s (.idivEb atBx) true .w8 atBx ∧ s.operandBacked .w8 atBx = true ∧ s.Reads .w8 atBx 1 ∧
    -128 = (s.regs.view .w8 (Claims.accHigh .w8)).toInt * 2 ^ 8 + (s.regs.view .w8 .r0).toNat ∧ (1 : Byte) ≠ 0 ∧
    (-128 : Int) = -128 * (1 : Byte).toInt + 0 ∧ |(0 : Int)| < |(1 : Byte).toInt| ∧
    ((0 : Int) = 0 ∨ ((0 : Int) < 0 ↔ (0 : Int) < -128)) ∧ (-2 ^ (8 - 1) : Int) ≤ -128 ∧ (-128 : Int) < 2 ^ (8 - 1) :=
  ⟨.idivEb _, by decide, by unfold State.Reads; decide, by decide, by decide, by decide, by decide, .inl rfl,
    by decide, by decide⟩

/-- The three ways to the divide error, the two quotients just beyond the range. -/
theorem wit_DivideErrorEntersVectorZero :
    Claims.EntryBacked w 0 ∧
    (let s := putMem w 0x30500 [0x00]
     Claims.Divides s (.divEb atBx) false .w8 atBx ∧ s.Reads .w8 atBx 0 ∧ s.operandBacked .w8 atBx = true) ∧
    (let s := putMem { w with regs := { w.regs with eax := 0x0100 } } 0x30500 [0x01]
     s.Reads .w8 atBx 1 ∧ 2 ^ 8 ≤
      ((s.regs.view .w8 (Claims.accHigh .w8)).toNat * 2 ^ 8 + (s.regs.view .w8 .r0).toNat) / (1 : Byte).toNat) ∧
    (let s := putMem { w with regs := { w.regs with eax := 0xFF7F } } 0x30500 [0x01]
     Claims.Divides s (.idivEb atBx) true .w8 atBx ∧ s.Reads .w8 atBx 1 ∧ ∀ q r : Int,
      (s.regs.view .w8 (Claims.accHigh .w8)).toInt * 2 ^ 8 + (s.regs.view .w8 .r0).toNat = q * (1 : Byte).toInt + r →
      |r| < |(1 : Byte).toInt| → q < -2 ^ (8 - 1) ∨ 2 ^ (8 - 1) ≤ q) := by
  refine ⟨by unfold Claims.EntryBacked; decide, ⟨.divEb _, by unfold State.Reads; decide, by decide⟩,
    ⟨by unfold State.Reads; decide, by decide⟩, .idivEb _, by unfold State.Reads; decide, fun q r h hr => ?_⟩
  have h1 : |r| < 1 := hr
  have h2 : (-129 : Int) = q * 1 + r := h
  rw [abs_lt] at h1
  omega

theorem wit_shifts :
    Claims.Shifts w (.shlEbIb atBx 0x21) .shl .w8 atBx 0x21 ∧ Claims.Shifts w (.sarEbIb atBx 0x1F) .sar .w8 atBx 0x1F ∧
      Claims.Shifts w (.rolEbIb atBx 0x1F) .rol .w8 atBx 0x1F ∧ Claims.Shifts w (.rcrEvCl (.reg .r0)) .rcr .w16
      (.reg .r0) (w.regs.view .w8 .r1) ∧ w.operandBacked .w8 atBx = true ∧ w.Reads .w8 atBx 0x7F ∧
      (0x21 : Byte).toNat % 32 ≠ 0 ∧ (0x1F : Byte).toNat % 32 ≠ 0 ∧ (0x20 : Byte).toNat % 32 = 0 ∧
      (w.regs.view .w8 .r1).toNat % 32 ≠ 0 :=
  ⟨.shlEbIb _ _, .sarEbIb _ _, .rolEbIb _ _, .rcrEvCl _, by decide, by unfold State.Reads; decide, by decide, by decide,
    by decide, by decide⟩

theorem wit_ZeroCountChangesNothing :
    Claims.Shifts w (.rclEbIb atBx 0x20) .rcl .w8 atBx 0x20 ∧ w.operandBacked .w8 atBx = true ∧
      (0x20 : Byte).toNat % 32 = 0 := ⟨.rclEbIb _ _, by decide, by decide⟩

/-- A count of 8 turns a byte full circle; a count of 9 does so through the carry. -/
theorem wit_RolAndRorTurnTheOperand :
    Claims.Shifts w (.rorEbIb atBx 8) .ror .w8 atBx 8 ∧ (ShiftOp.ror = .rol ∨ ShiftOp.ror = .ror) ∧
      w.operandBacked .w8 atBx = true ∧ w.Reads .w8 atBx 0x7F ∧ (8 : Byte).toNat % 32 ≠ 0 :=
  ⟨.rorEbIb _ _, .inr rfl, by decide, by unfold State.Reads; decide, by decide⟩

theorem wit_RclAndRcrTurnThroughTheCarry :
    Claims.Shifts w (.rclEbIb atBx 9) .rcl .w8 atBx 9 ∧ (ShiftOp.rcl = .rcl ∨ ShiftOp.rcl = .rcr) ∧
      w.operandBacked .w8 atBx = true ∧ w.Reads .w8 atBx 0x7F ∧ (9 : Byte).toNat % 32 ≠ 0 ∧
      (0x07F : BitVec 9) = BitVec.cons w.flags.cf (0x7F : BitVec 8) :=
  ⟨.rclEbIb _ _, .inl rfl, by decide, by unfold State.Reads; decide, by decide, by decide⟩

theorem wit_ShiftsMultiplyAndDivide :
    (ShiftOp.shl = .shl ∧ (0xFE : Byte) = BitVec.ofNat 8 ((0x7F : Byte).toNat * 2 ^ (0x21 % 32))) ∧
      (ShiftOp.shr = .shr ∧ (0x3F : Byte) = BitVec.ofNat 8 ((0x7F : Byte).toNat / 2 ^ (0x21 % 32))) ∧
      ShiftOp.sar = .sar ∧ (0xFF : Byte) = BitVec.ofInt 8 ((0x80 : Byte).toInt / 2 ^ (0x1F % 32)) := by decide

theorem wit_MovPutsTheSourceInTheDestination :
    Claims.Moves w (.movEbIb atBx 0xFF) .w8 atBx (.value 0xFF) ∧ w.operandBacked .w8 atBx = true ∧
      (Claims.Source.value (w := .w8) 0xFF).Has w 0xFF ∧ w.operandBacked .w16 atBx = true ∧
      w.Reads .w16 atBx 0x807F :=
  ⟨.movEbIb _ _, by decide, rfl, by decide, by unfold State.Reads; decide⟩

theorem wit_XchgSwapsItsOperands :
    (Instr.xchgEbGb atBx .r7 = .xchgEbGb atBx .r7 ∧ Width.w8 = .w8) ∧ w.operandBacked .w8 atBx = true ∧
      w.Reads .w8 atBx 0x7F := ⟨⟨rfl, rfl⟩, by decide, by unfold State.Reads; decide⟩

theorem wit_LeaAndXlat :
    (0x0580 : Half) = BitVec.ofNat 16 ((w.regs.view .w16 .r3).toNat + (w.regs.view .w8 .r0).toNat) ∧
      w.segBacked (w.dataSeg .ds) 0x0580 1 ∧ w.Holds (w.dataSeg .ds) 0x0580 1 (0 : Byte) := by decide

theorem wit_AccumulatorAndFlagByteMoves :
    w.opsizePfx = false ∧ ({ w with opsizePfx := true } : State).opsizePfx = true ∧
      ({ w with regs := { w.regs with eax := 0xD500 } } : State).regs.view .w8 .r4 = 0xD5 := by decide

theorem wit_PushStoresBelowTheStackPointer :
    (Claims.Pushes w (.pushR .r4) .w16 (.operand (.reg .r4)) ∧
      (Claims.Source.operand (w := .w16) (.reg .r4)).Has w 0x100 ∧
      w.segBacked w.sregs.ss (Claims.sp w - BitVec.ofNat 16 Width.w16.bytes) Width.w16.bytes) ∧
    (let s : State := { w with opsizePfx := true, regs := { w.regs with esp := 1 } }
     Claims.Pushes s (.pushEv atBx) .w32 (.operand atBx) ∧
      (Claims.Source.operand (w := .w32) atBx).Has s 0x1234807F ∧
      s.segBacked s.sregs.ss (Claims.sp s - BitVec.ofNat 16 Width.w32.bytes) Width.w32.bytes) :=
  ⟨⟨.pushR _, ⟨rfl, rfl⟩, by decide⟩, .pushEv _, by unfold Claims.Source.Has State.Reads; decide, by decide⟩

theorem wit_PopLoadsFromTheStackPointer :
    (∃ r, Instr.popR .r4 = .popR r ∧ EOperand.reg .r4 = .reg r) ∧ Width.w16 = w.vWidth ∧
      w.segBacked w.sregs.ss (Claims.sp w) Width.w16.bytes ∧
      w.Holds w.sregs.ss (Claims.sp w) Width.w16.bytes (0x5678 : Half) ∧ w.operandBacked .w16 (.reg .r4) = true :=
  ⟨⟨_, rfl, rfl⟩, rfl, by decide, by decide, rfl⟩

/-- The two bytes of the push lie at both ends of the segment. -/
theorem wit_PushThenPopRestores :
    let s : State := { w with regs := { w.regs with esp := 1 } }
    s.segBacked s.sregs.ss (Claims.sp s - BitVec.ofNat 16 Width.w16.bytes) Width.w16.bytes ∧
      s.segBacked s.sregs.ss (Claims.sp s - BitVec.ofNat 16 s.vWidth.bytes) s.vWidth.bytes := by decide

theorem wit_JmpTransfersToItsTarget :
    w.operandBacked .w16 atBx = true ∧ w.Reads .w16 atBx 0x807F ∧ w.segBacked (w.eaSeg (.base .bx)) (w.eaOff (.base .bx)) 4 ∧
      w.Holds (w.eaSeg (.base .bx)) (w.eaOff (.base .bx)) 4 ((0x1234 : Half) ++ (0x807F : Half)) :=
  ⟨by decide, by unfold State.Reads; decide, by decide, by decide⟩

/-- Each of the sixteen conditions, and a state in which it holds and one in which it does not. -/
theorem wit_ConditionalJumpsFollowTheirCondition :
    Claims.Conditional w (.jle 0x80) (w.flags.zf = true ∨ w.flags.sf ≠ w.flags.ofl) 0x80 ∧
      ¬ (w.flags.zf = true ∨ w.flags.sf ≠ w.flags.ofl) ∧
    let s : State := { w with flags := { w.flags with zf := true } }
    Claims.Conditional s (.jle 0x7F) (s.flags.zf = true ∨ s.flags.sf ≠ s.flags.ofl) 0x7F ∧
      (s.flags.zf = true ∨ s.flags.sf ≠ s.flags.ofl) :=
  ⟨.jle _, by decide, .jle _, by decide⟩

/-- CX = 1 becomes 0; CX = 0 becomes 0xFFFF. -/
theorem wit_CountRegisterJumps :
    (Instr.loope 0x80 = .loope 0x80 ∧ (w.flags.zf = true ↔ w.flags.zf = true)) ∧
      (2 : Half) = w.regs.view .w16 .r1 - 1 ∧ (2 : Half) ≠ 0 ∧
      (0 : Half) = ({ w with regs := { w.regs with ecx := 1 } } : State).regs.view .w16 .r1 - 1 ∧
      (0xFFFF : Half) = ({ w with regs := { w.regs with ecx := 0 } } : State).regs.view .w16 .r1 - 1 :=
  ⟨⟨rfl, .rfl⟩, by decide, by decide, by decide, by decide⟩

theorem wit_CallPushesTheReturnAddress :
    (w.segBacked w.sregs.ss (Claims.sp w - 2) 2 ∧ w.operandBacked .w16 atBx = true ∧ w.Reads .w16 atBx 0x807F) ∧
    (w.segBacked w.sregs.ss (Claims.sp w - 4) 4 ∧ w.segBacked (w.eaSeg (.base .bx)) (w.eaOff (.base .bx)) 4 ∧
      w.Holds (w.eaSeg (.base .bx)) (w.eaOff (.base .bx)) 4 ((0x1234 : Half) ++ (0x807F : Half))) :=
  ⟨⟨by decide, by decide, by unfold State.Reads; decide⟩, by decide, by decide, by decide⟩

theorem wit_RetPopsTheReturnAddress :
    (Instr.ret = .ret ∧ (0 : Half) = 0) ∧ w.segBacked w.sregs.ss (Claims.sp w) 4 ∧
      w.Holds w.sregs.ss (Claims.sp w) 2 (0x5678 : Half) ∧
      w.Holds w.sregs.ss (Claims.sp w) 4 ((0x1234 : Half) ++ (0x5678 : Half)) :=
  ⟨⟨rfl, rfl⟩, by decide, by decide, by decide⟩

/-- Port 0x3F8 owned by device 7 (a black box), and the data port of a configuration stub before any address write. -/
theorem wit_InReadsTheOwningDevice :
    (Claims.ReadsPort w .inAlDx .w8 (w.regs.view .w16 .r2) ∧ w.ownerOf (w.regs.view .w16 .r2) = none) ∧
    (let s : State := { w with owner := [(0xFF, 7)], replies := [.answer 0x12345678 [.raise]] }
     Claims.ReadsPort s (.inAlIb 0xFF) .w8 0xFF ∧ s.ownerOf 0xFF = some 7 ∧ s.stubUnaddressed 7 0xFF = false ∧
      s.replies = .answer 0x12345678 [.raise] :: []) ∧
    (let s : State := { w with owner := [(0xFF, 7)], replies := [.unimplemented] }
     s.ownerOf 0xFF = some 7 ∧ s.replies = .unimplemented :: []) ∧
    (let s : State := { w with owner := [(0xFF, 7)] }
     s.ownerOf 0xFF = some 7 ∧ s.replies = []) ∧
    (let s : State := { w with
      owner := [(0xFC, 7)]
      devices := [(7, .stub false)]
      params := { Params.default with devices := [⟨7, .configStub [0xF8] [0xFC] ⟨[], [0xF8, 0xFC], false⟩, []⟩] } }
     s.ownerOf 0xFC = some 7 ∧ s.stubUnaddressed 7 0xFC = true) ∧
    (Assoc.find 2 busy.lineOf ≠ some 14 ∧ Assoc.find 2 busy.lineOf ≠ some 0 ∧ (1 : DeviceId) ≠ 2) :=
  ⟨⟨.inAlDx, by decide⟩, ⟨.inAlIb _, by decide, by decide, rfl⟩, ⟨by decide, rfl⟩, ⟨by decide, rfl⟩,
    ⟨by decide, by decide⟩, by decide⟩

theorem wit_OutWritesTheOwningDevice :
    (Claims.WritesPort w .outDxEax .w16 (w.regs.view .w16 .r2) ∧
      (0x0080 : Word) = BitVec.ofNat 32 (w.regs.view .w16 .r0).toNat ∧ w.ownerOf (w.regs.view .w16 .r2) = none) ∧
    (let s : State := { w with owner := [(0xFF, 7)], replies := [.answer 0 [.gate true]] }
     Claims.WritesPort s (.outIbAl 0xFF) .w8 0xFF ∧ s.ownerOf 0xFF = some 7 ∧
      s.replies = .answer 0 [.gate true] :: []) ∧
    (let s : State := { w with owner := [(0xFF, 7)], replies := [.unimplemented] }
     s.ownerOf 0xFF = some 7 ∧ s.replies = .unimplemented :: []) ∧
    (let s : State := { w with owner := [(0xFF, 7)] }
     s.ownerOf 0xFF = some 7 ∧ s.replies = []) ∧
    (let s := stubbed []
     (∃ x, s.deviceSpec 7 = some x ∧ x.kind = .configStub [0xF8] [0xFC] ⟨[], [0xF8], false⟩) ∧
      (0xF8 : Half) ∈ ([0xF8] : List Half) ∧ Assoc.find 7 s.devices = some (.stub false) ∧
      (s.noteAddressWrite 7 0xF8).devices ≠ s.devices) :=
  ⟨⟨.outDxEax, by decide, by decide⟩, ⟨.outIbAl _, by decide, rfl⟩, ⟨by decide, rfl⟩, ⟨by decide, rfl⟩, ⟨_, rfl, rfl⟩,
    by decide, rfl, by decide⟩

/-- A device with a line, one without while a line is free, and one without when all sixteen are held; a channel with its
selected drive present, one without drives, and a device that is no channel. -/
theorem wit_LinesAreRequestedRaisedAndCleared :
    Assoc.find 2 busy.lineOf = some 15 ∧ (Assoc.find 3 busy.lineOf = none ∧ 14 < busy.params.nlines ∧
      busy.lineHeld 14 = false) ∧
    (let s : State := { busy with lineOf := (List.range 16).map fun n => (n, n) }
     Assoc.find 16 s.lineOf = none ∧ ∀ n < s.params.nlines, s.lineHeld n = true) ∧
    (let s : State := { busy with devices := [(7, .disk (DiskChannel.construct .disk .none).reset),
       (8, .disk (DiskChannel.construct .none .none)), (9, .stub false)] }
     Assoc.find 7 s.devices = some (.disk (DiskChannel.construct .disk .none).reset) ∧
       (DiskChannel.construct .disk .none).reset.isSelectedDrivePresent = true ∧
       Assoc.find 8 s.devices = some (.disk (DiskChannel.construct .none .none)) ∧
       (DiskChannel.construct .none .none).isSelectedDrivePresent = false ∧
       Assoc.find 9 s.devices = some (.stub false) ∧ (7 : DeviceId) ≠ 8) := by decide

/-- A drive that is idle, one that is busy, one with a byte left to transfer, one in error, and an empty channel. -/
theorem wit_DiskChannelFollowsItsStates :
    let c := (DiskChannel.construct .disk .none).reset
    (c.slot0.kind = .disk ∧ c.slot0.state = .idle) ∧ (c.slot1.kind = .none) ∧
      (c.slot0.event 0 .command).state = .busy ∧
      ((c.slot0.event 0 .command).event 0 (.dataReady 1)).state = .dataTransfer 1 ∧
      ((c.slot0.event 0 .command).event 0 (.dataReady 2)).state = .dataTransfer 2 ∧ 1 < 2 ∧ 1 ≤ 2 ∧
      (c.slot0.event 0 .fault).state = .error ∧ DiskEvent.command ≠ .acknowledge ∧
      (DiskChannel.construct .none .none).slot0.kind = .none ∧
      (DiskChannel.construct .none .none).slot1.kind = .none ∧
      (DiskChannel.construct .none .none).isSelectedDrivePresent = false ∧ c.slaveSelected = false ∧
      (let c' := DiskChannel.construct .none .disk
       c'.slot0.kind = .none ∧ c'.slot1.kind = .disk ∧ c'.slaveSelected = false ∧
         (c'.event 0 (.select true)).slaveSelected = true ∧ (c'.event 0 (.select true)).slot1.kind = .disk) ∧
      (c.event 0 (.select true)).slaveSelected = true ∧ (c.event 0 (.select true)).slot1.kind = .none := by decide

end Sys2Proof.Tests
end

namespace Sys2Proof.Machine

/-! ## The invariant of the tables and of memory: instructions, the cycle, resets, the environment phase -/

/-! ### What an instruction keeps, whatever its kind -/

/-- The parts of the state that no instruction changes, and what it keeps of memory and of the raised lines. -/
structure State.Keeps (s t : State) : Prop where
  owner : t.owner = s.owner
  lineOf : t.lineOf = s.lineOf
  watch : t.watch = s.watch
  params : t.params = s.params
  phases : t.phases = s.phases
  ipStart : t.ipStart = s.ipStart
  mem : s.mem.Grown s.params.ramSize t.mem
  pending : s.pendingOk → t.pendingOk

theorem State.Computed.keeps {s t : State} (h : s.Computed t) : s.Keeps t := by
  obtain ⟨_, _, _, rfl, -, hm⟩ := h
  exact ⟨rfl, rfl, rfl, rfl, rfl, rfl, hm, id⟩

theorem State.Entered.keeps {s t : State} (h : s.Entered t) : s.Keeps t := by
  obtain ⟨_, _, _, _, rfl, hm⟩ := h
  exact ⟨rfl, rfl, rfl, rfl, rfl, rfl, hm, id⟩

theorem State.Keeps.refl (s : State) : s.Keeps s := ⟨rfl, rfl, rfl, rfl, rfl, rfl, .refl _ _, id⟩

/-- Every kind of instruction keeps the tables, the parameters and the form of memory. -/
theorem Kind.Next.keeps {s t : State} {k : Kind} (h : k.Next s t) : s.Keeps t := by
  cases k with
  | data => obtain ⟨_, _, rfl, hm⟩ := h; exact ⟨rfl, rfl, rfl, rfl, rfl, rfl, hm, id⟩
  | arith => exact State.Computed.keeps h
  | sreg i => obtain ⟨_, _, rfl⟩ := h; exact ⟨rfl, rfl, rfl, rfl, rfl, rfl, .refl _ _, id⟩
  | near => obtain ⟨_, _, _, rfl, hm⟩ := h; exact ⟨rfl, rfl, rfl, rfl, rfl, rfl, hm, id⟩
  | far => obtain ⟨_, _, _, _, rfl, hm⟩ := h; exact ⟨rfl, rfl, rfl, rfl, rfl, rfl, hm, id⟩
  | entry => exact h.elim (fun e => e ▸ .refl s) State.Entered.keeps
  | divide => exact h.elim State.Computed.keeps State.Entered.keeps
  | image => obtain ⟨_, _, _, _, rfl⟩ := h; exact ⟨rfl, rfl, rfl, rfl, rfl, rfl, .refl _ _, id⟩
  | ifl => obtain ⟨_, rfl⟩ := h; exact ⟨rfl, rfl, rfl, rfl, rfl, rfl, .refl _ _, id⟩
  | halt => rw [show t = _ from h]; exact ⟨rfl, rfl, rfl, rfl, rfl, rfl, .refl _ _, id⟩
  | latch => obtain ⟨_, _, rfl⟩ := h; exact ⟨rfl, rfl, rfl, rfl, rfl, rfl, .refl _ _, id⟩
  | port =>
    obtain ⟨u, g, hu, hp, rfl⟩ := h
    have f := hu.fields
    exact ⟨f.owner, f.lineOf, f.watch, f.params, f.phases, f.ipStart, by rw [f.mem]; exact .refl _ _, hp⟩

/-- `exec_does` for an instruction that completes: its kind's changes, apart from the trace. -/
theorem exec_next {i : Instr} {s t : State} (h : exec i s = .next t) :
    (kindOf i).Next s { t with trace := s.trace } := by
  have := exec_does i s
  rw [h] at this
  exact this.1

/-- The trace of an instruction that completes grows by records of the watch address (R570). -/
theorem exec_trace {i : Instr} {s t : State} (h : exec i s = .next t) :
    ∃ l, t.trace = s.trace ++ l ∧ s.Flagged l := by
  have := exec_does i s
  rw [h] at this
  exact this.2

/-- `exec_does` for an instruction that completes: what every kind keeps. -/
theorem exec_keeps {i : Instr} {s t : State} (h : exec i s = .next t) : s.Keeps t := by
  have k := (exec_next h).keeps
  exact ⟨k.owner, k.lineOf, k.watch, k.params, k.phases, k.ipStart, k.mem, k.pending⟩

/-! ### The invariant, instruction by instruction -/

/-- Memory with nothing but backed addresses added keeps its form (R35, R63). -/
theorem State.memoryOk_of_grown {s t : State} (h : s.memoryOk) (hp : t.params = s.params)
    (hm : s.mem.Grown s.params.ramSize t.mem) : t.memoryOk :=
  ⟨hm.wf h.1, fun c hc => hp ▸ (hm.mem c hc).elim (h.2 c) id⟩

theorem State.Keeps.inv {s t : State} (k : s.Keeps t) (h : s.Inv) : t.Inv where
  memory := State.memoryOk_of_grown h.memory k.params k.mem
  ports := by rw [State.portMapOk, k.owner]; exact h.ports
  lines := by rw [State.linesOk, k.lineOf, k.params]; exact h.lines
  pending := k.pending h.pending

theorem State.Inv.exec {i : Instr} {s t : State} (h : s.Inv) (e : exec i s = .next t) : t.Inv := (exec_keeps e).inv h

/-- Interrupt entry keeps the invariant (R520). -/
theorem State.Inv.interrupt {s t : State} (h : s.Inv) {v : Byte} {ret : Half}
    (e : ofEff (s.interrupt v ret) = .next t) : t.Inv := by
  rcases s.interrupt_out v ret with ⟨u, hu, he⟩ | ⟨r, hr, -⟩
  · rw [hu] at e
    cases e
    have hi := he.keeps.inv h
    exact ⟨hi.memory, hi.ports, hi.lines, hi.pending⟩
  · rw [hr] at e
    cases e

/-! ### The cycle -/

theorem State.Inv.advance {s : State} (h : s.Inv) (n : Nat) : (s.advance n).Inv :=
  ⟨h.memory, h.ports, h.lines, h.pending⟩

theorem State.Inv.startDecode {s : State} (h : s.Inv) : s.startDecode.Inv :=
  ⟨h.memory, h.ports, h.lines, h.pending⟩

/-- A DecodeFault that does not stop the run keeps the invariant (R510, R511). -/
theorem State.Inv.decodeFault {s t : State} (h : s.Inv) {bytes : List Byte} {info : DecodeInfo}
    (e : s.decodeFault bytes info = .next t) : t.Inv := by
  unfold State.decodeFault at e
  split at e
  · cases e
  · refine State.Inv.interrupt ?_ e
    exact ⟨h.memory, h.ports, h.lines, h.pending⟩

theorem State.Inv.pastWindow {s t : State} (h : s.Inv) {window : List Byte} (e : s.pastWindow window = .next t) :
    t.Inv := by
  unfold State.pastWindow at e
  dsimp only at e
  split at e
  · exact h.decodeFault e
  · cases e

/-- Decoding and executing one instruction with its prefixes keeps the invariant (R101, R105). -/
theorem State.Inv.runUnits {start t : State} (hs : start.Inv) {window : List Byte} (fuel : Nat) (bs : List Byte)
    {s : State} (h : s.Inv) (e : runUnits start window fuel bs s = .next t) : t.Inv := by
  induction fuel generalizing bs s with
  | zero => exact hs.pastWindow e
  | succ fuel ih =>
    unfold Machine.runUnits at e
    split at e
    · exact hs.pastWindow e
    · exact hs.decodeFault e
    · rename_i i n _
      have ha := h.advance n
      split at e
      · split at e
        · rename_i s' he
          exact ih _ (ha.exec he) e
        · cases e
        · cases e
      · exact ha.exec e

theorem State.Inv.cycle {s t : State} (h : s.Inv) (e : cycle s = .next t) : t.Inv := by
  unfold Machine.cycle at e
  split at e
  · exact h.interrupt e
  · split at e
    · cases e; exact h
    · exact State.Inv.runUnits h.startDecode _ _ h.startDecode e

/-! ### The environment phase -/

/-- What a device's actions leave: the tables, and each raised line raised by its holder (R412, R503). -/
theorem State.Inv.deviceActions {s : State} (h : s.Inv) (d : DeviceId) (n : Nat) (as : List DeviceAction) :
    (s.deviceActions d n as).Inv := by
  have f := (s.deviceFrame_deviceActions d n as).fields
  exact {
    memory := by rw [State.memoryOk, f.mem, f.params]; exact h.memory
    ports := by rw [State.portMapOk, f.owner]; exact h.ports
    lines := by rw [State.linesOk, f.lineOf, f.params]; exact h.lines
    pending := State.pendingOk_deviceActions h.pending d n as }

theorem State.Inv.resetDeviceState {s : State} (h : s.Inv) (x : DeviceSpec) : (s.resetDeviceState x).Inv := by
  unfold State.resetDeviceState
  split
  · exact h
  · exact ⟨h.memory, h.ports, h.lines, h.pending⟩
  · exact ⟨h.memory, h.ports, h.lines, h.pending⟩

theorem State.requestLine_owner (s : State) (d : DeviceId) (prefs : List Nat) :
    (s.requestLine d prefs).1.owner = s.owner := by
  unfold State.requestLine
  split
  · rfl
  · split <;> rfl

theorem State.Inv.requestIfWanted {s : State} (h : s.Inv) (x : DeviceSpec) : (s.requestIfWanted x).Inv := by
  unfold State.requestIfWanted
  split
  · have f : s.ResetFrame (s.requestLine x.id x.linePrefs).1 := s.resetFrame_requestLine _ _
    unfold State.ResetFrame at f
    exact {
      memory := by rw [f]; exact h.memory
      ports := by rw [State.portMapOk, s.requestLine_owner]; exact h.ports
      lines := State.linesOk_requestLine h.lines _ _
      pending := State.pendingOk_requestLine h.pending h.lines _ _ }
  · exact h

theorem State.Inv.registerPort {s : State} (h : s.Inv) (d : DeviceId) (p : Half) : (s.registerPort d p).Inv :=
  ⟨h.memory, State.portMapOk_registerPort h.ports d p, h.lines, h.pending⟩

theorem State.Inv.unregisterPort {s : State} (h : s.Inv) (p : Half) : (s.unregisterPort p).Inv :=
  ⟨h.memory, State.portMapOk_unregisterPort h.ports p, h.lines, h.pending⟩

theorem State.Inv.foldl {α : Type} {f : State → α → State} {s : State} (h : s.Inv)
    (hf : ∀ (s : State) a, s.Inv → (f s a).Inv) (l : List α) : (l.foldl f s).Inv := by
  induction l generalizing s with
  | nil => exact h
  | cons a l ih => exact ih (hf s a h)

/-- A device's `reset()` keeps the invariant (R423, R556). -/
theorem State.Inv.deviceReset {s : State} (h : s.Inv) (x : DeviceSpec) : (s.deviceReset x).Inv :=
  (((h.resetDeviceState x).requestIfWanted x).foldl (fun _ p hs => hs.unregisterPort p) _).foldl
    (fun _ p hs => hs.registerPort x.id p) _

/-- A system reset keeps the invariant: it releases every line before it gives them out anew (R602). -/
theorem State.Inv.systemReset {s : State} (h : s.Inv) : s.systemReset.Inv := by
  have h0 : { s.cpuReset with lineOf := [], pending := [], a20 := s.params.a20Reset }.Inv :=
    ⟨h.memory, h.ports, ⟨.nil, .nil, List.forall_mem_nil _⟩, .nil, List.forall_mem_nil _⟩
  exact h0.foldl (fun _ x hs => hs.deviceReset x) _

theorem State.Inv.resetOne {s : State} (h : s.Inv) (d : DeviceId) : (s.resetOne d).Inv := by
  unfold State.resetOne
  split
  · exact h.deviceReset _
  · exact h

/-- A bulk load that is not refused lies below RAM_SIZE (R79). -/
theorem State.Inv.setBytes {s t : State} (h : s.Inv) {addr : Nat} {bytes : List Byte}
    (e : s.setBytes addr bytes = .ok t) : t.Inv := by
  unfold State.setBytes at e
  split at e
  · rename_i hb
    cases e
    refine ⟨⟨Memory.wf_writeBytes h.memory.1 addr bytes, fun c hc => ?_⟩, h.ports, h.lines, h.pending⟩
    rcases Memory.mem_writeBytes hc with ⟨hlo, hhi⟩ | hc
    · rcases hb with rfl | hb
      · simp only [List.length_nil] at hhi; omega
      · exact lt_of_lt_of_le hhi hb
    · exact h.memory.2 c hc
  · cases e

theorem State.Inv.input {s t : State} (h : s.Inv) {i : Input} (e : s.input i = .ok t) : t.Inv := by
  cases i with
  | update d as => cases e; exact h.deviceActions d 0 as
  | gate b => cases e; exact ⟨h.memory, h.ports, h.lines, h.pending⟩
  | deviceReset d => cases e; exact h.resetOne d
  | systemReset => cases e; exact h.systemReset
  | setBytes addr bytes => exact h.setBytes e
  | armWatch a => cases e; exact ⟨h.memory, h.ports, h.lines, h.pending⟩
  | disarmWatch => cases e; exact ⟨h.memory, h.ports, h.lines, h.pending⟩

theorem State.Inv.inputs {s t : State} (h : s.Inv) (is : List Input) (e : s.inputs is = .ok t) : t.Inv := by
  induction is generalizing s with
  | nil => cases e; exact h
  | cons i is ih =>
    unfold State.inputs at e
    cases hi : s.input i with
    | error r => rw [hi] at e; cases e
    | ok u => rw [hi] at e; exact ih (h.input hi) e

/-- An environment phase keeps the invariant (R503). -/
theorem State.Inv.environmentPhase {s t : State} (h : s.Inv) (e : s.environmentPhase = .ok t) : t.Inv := by
  unfold State.environmentPhase at e
  split at e
  · cases e; exact h
  · rename_i p ps _
    exact State.Inv.inputs (s := { s with phases := ps }) ⟨h.memory, h.ports, h.lines, h.pending⟩ p e

/-- Settles O3: the environment phase and the cycle each keep the invariant, from every state that meets it. -/
theorem everyStepKeepsTheInvariant : Obligations.EveryStepKeepsTheInvariant := by
  intro s t h e
  unfold step stepOnce at e
  split at e
  · rename_i u hu
    exact (h.environmentPhase hu).cycle e
  · cases e

/-- Settles O2: at reset memory and the tables are empty. -/
theorem resetMeetsTheInvariant : Obligations.ResetMeetsTheInvariant where
  memory := ⟨⟨.nil, List.forall_mem_nil _⟩, List.forall_mem_nil _⟩
  ports := ⟨.nil, List.forall_mem_nil _⟩
  lines := ⟨.nil, .nil, List.forall_mem_nil _⟩
  pending := ⟨.nil, List.forall_mem_nil _⟩

/-! ## What each kind of instruction leaves as it was -/

/-! ### By kind -/

/-- Can an instruction of the kind write the segment register `r` (R26)? -/
def Kind.writesSreg : Kind → SReg → Bool
  | .sreg i, r => i == r
  | .far, r | .entry, r | .divide, r | .image, r => r == .cs
  | _, _ => false

/-- Can an instruction of the kind write IF (R31)? -/
def Kind.writesIf : Kind → Bool
  | .entry | .divide | .image | .ifl => true
  | _ => false

/-- Can an instruction of the kind write a flag (R31)? -/
def Kind.writesFlags (k : Kind) : Bool := k == .arith || k.writesIf

/-- The lines, the gate, the devices, their answers and the records are as they were. -/
structure State.SameBus (s t : State) : Prop where
  pending : t.pending = s.pending := by rfl
  a20 : t.a20 = s.a20 := by rfl
  devices : t.devices = s.devices := by rfl
  replies : t.replies = s.replies := by rfl
  portCalls : t.portCalls = s.portCalls := by rfl
  busLog : t.busLog = s.busLog := by rfl

/-- What an instruction of a kind leaves as it was. A field that is not given says that the two states agree there. -/
structure Kind.Leaves (k : Kind) (s t : State) : Prop where
  sreg : ∀ r, k.writesSreg r = false → t.sregs.get r = s.sregs.get r := by exact fun _ _ => rfl
  flags : k.writesFlags = false → t.flags = s.flags := by exact fun _ => rfl
  ifl : k.writesIf = false → t.flags.ifl = s.flags.ifl := by exact fun _ => rfl
  bus : k ≠ .port → s.SameBus t := by exact fun _ => {}
  latches : k ≠ .latch → t.opsizePfx = s.opsizePfx ∧ t.segPfx = s.segPfx := by exact fun _ => ⟨rfl, rfl⟩
  halted : k ≠ .halt → t.halted = true → s.halted = true := by exact fun _ => id

theorem SRegs.get_set_of_beq_false {i r : SReg} (h : (r == i) = false) (g : SRegs) (v : Half) :
    (g.set i v).get r = g.get r :=
  (SRegs.get_set _ _ _ _).trans (if_neg (ne_of_beq_false h))

/-- A computation writes registers, memory and status flags. -/
theorem State.Computed.leaves {s t : State} (h : s.Computed t) {k : Kind} (hk : k.writesFlags = true) :
    k.Leaves s t := by
  obtain ⟨_, _, f, rfl, hf, -⟩ := h
  exact { flags := fun h => absurd (hk.symm.trans h) nofun, ifl := fun _ => hf }

/-- The entry of an interrupt writes CS and the flags, and ends a halt. -/
theorem State.Entered.leaves {s t : State} (h : s.Entered t) {k : Kind} (hs : k.writesSreg = (· == .cs))
    (hf : k.writesFlags = true) (hi : k.writesIf = true) : k.Leaves s t := by
  obtain ⟨_, _, _, _, rfl, -⟩ := h
  exact {
    sreg := fun r hr => SRegs.get_set_of_beq_false (by rwa [hs] at hr) _ _
    flags := fun h => absurd (hf.symm.trans h) nofun
    ifl := fun h => absurd (hi.symm.trans h) nofun
    halted := fun _ => nofun }

/-- What an instruction leaves as it was, kind by kind. -/
theorem Kind.Next.leaves {s t : State} {k : Kind} (h : k.Next s t) : k.Leaves s t := by
  cases k with
  | data => obtain ⟨_, _, rfl, -⟩ := h; exact {}
  | arith => exact State.Computed.leaves h rfl
  | sreg i =>
    obtain ⟨_, _, rfl⟩ := h
    exact { sreg := fun r hr => SRegs.get_set_of_beq_false (BEq.comm.trans hr) _ _ }
  | near => obtain ⟨_, _, _, rfl, -⟩ := h; exact {}
  | far => obtain ⟨_, _, _, _, rfl, -⟩ := h; exact { sreg := fun _ hr => SRegs.get_set_of_beq_false hr _ _ }
  | entry =>
    rcases h with rfl | h
    · exact {}
    · exact h.leaves rfl rfl rfl
  | divide => exact h.elim (·.leaves rfl) (·.leaves rfl rfl rfl)
  | image =>
    obtain ⟨_, _, _, _, rfl⟩ := h
    exact { sreg := fun _ hr => SRegs.get_set_of_beq_false hr _ _, flags := nofun, ifl := nofun }
  | ifl => obtain ⟨_, rfl⟩ := h; exact { flags := nofun, ifl := nofun }
  | halt => rw [show t = _ from h]; exact { halted := fun hk => absurd rfl hk }
  | latch => obtain ⟨_, _, rfl⟩ := h; exact { latches := fun hk => absurd rfl hk }
  | port =>
    obtain ⟨u, g, hu, -, rfl⟩ := h
    have f := hu.fields
    exact {
      sreg := fun r _ => congrArg (·.get r) f.sregs
      flags := fun _ => f.flags
      ifl := fun _ => congrArg Flags.ifl f.flags
      bus := fun hk => absurd rfl hk
      latches := fun _ => ⟨f.opsizePfx, f.segPfx⟩
      halted := fun _ ht => f.halted.symm.trans ht }

/-- `exec_does` for an instruction that completes: what its kind leaves. -/
theorem exec_leaves {i : Instr} {s t : State} (h : exec i s = .next t) : (kindOf i).Leaves s t := by
  have l := (exec_next h).leaves
  refine ⟨l.sreg, l.flags, l.ifl, fun k => ?_, l.latches, l.halted⟩
  have b := l.bus k
  exact ⟨b.pending, b.a20, b.devices, b.replies, b.portCalls, b.busLog⟩

/-! ### Which instructions are of a kind -/

/-- POPF has the kind of IRET, but only IRET loads CS. -/
theorem writesCs_of_kindOf {i : Instr} (h : (kindOf i).writesSreg .cs = true) : i = .popf ∨ Claims.WritesCs i := by
  cases i <;> cases h
  case popf => exact .inl rfl
  all_goals exact .inr (by constructor)

theorem loadsSegment_of_kindOf {i : Instr} {r : SReg} (hr : r ≠ .cs) (h : (kindOf i).writesSreg r = true) :
    Claims.loadsSegment i = some r := by
  cases r with
  | cs => exact absurd rfl hr
  | es | ss | ds => cases i <;> cases h <;> rfl

theorem writesIf_of_kindOf {i : Instr} (h : (kindOf i).writesIf = true) : Claims.WritesIf i := by
  cases i <;> cases h <;> constructor

theorem writesFlags_of_keepsFlags {i : Instr} (h : Claims.KeepsFlags i) : (kindOf i).writesFlags = false := by
  cases h <;> rfl

theorem accessesPort_of_kindOf {i : Instr} (s : State) (h : kindOf i = .port) :
    (∃ w p, Claims.ReadsPort s i w p) ∨ ∃ w p, Claims.WritesPort s i w p := by
  cases i <;> cases h
  case inAlIb | inEaxIb | inAlDx | inEaxDx => exact .inl ⟨_, _, by constructor⟩
  case outIbAl | outIbEax | outDxAl | outDxEax => exact .inr ⟨_, _, by constructor⟩

theorem isPrefixByte_of_kindOf {i : Instr} (h : kindOf i = .latch) : i.isPrefixByte = true := by
  cases i <;> cases h <;> rfl

theorem eq_hlt_of_kindOf {i : Instr} (h : kindOf i = .halt) : i = .hlt := by
  cases i <;> cases h
  rfl

/-- POPF writes no segment register (R309). -/
theorem exec_popf_sregs {s t : State} (h : exec .popf s = .next t) : t.sregs = s.sregs := by
  change ofEff (popFlags s) = .next t at h
  unfold popFlags State.loadFlags at h
  rcases s.pop_cases .w16 with ⟨-, v, hv, -⟩ | ⟨-, hv⟩
  · rw [hv, Eff.ok_bind] at h
    dsimp only at h
    split at h
    · cases h
    · cases h; rfl
  · rw [hv] at h; cases h

/-! ### The statements -/

/-- Settles O24, from what each kind leaves; POPF, whose kind is that of IRET, by its own lemma. -/
theorem segmentRegistersAreWrittenOnlyByThese : Obligations.SegmentRegistersAreWrittenOnlyByThese := by
  intro i s t h
  refine ⟨fun hcs => ?_, fun r hr hl => ?_⟩
  · by_cases hp : i = .popf
    · subst hp; rw [exec_popf_sregs h]
    · exact (exec_leaves h).sreg .cs (Bool.eq_false_iff.2 fun hw => (writesCs_of_kindOf hw).elim hp hcs)
  · exact (exec_leaves h).sreg r (Bool.eq_false_iff.2 fun hw => hl (loadsSegment_of_kindOf hr hw))

/-- Settles O25, from what each kind leaves. -/
theorem flagsAreWrittenOnlyByThese : Obligations.FlagsAreWrittenOnlyByThese := fun _ _ _ h =>
  ⟨fun hk => (exec_leaves h).flags (writesFlags_of_keepsFlags hk),
    fun hi => (exec_leaves h).ifl (Bool.eq_false_iff.2 fun hw => hi (writesIf_of_kindOf hw))⟩

/-- Settles O26, from what every kind keeps and what each kind leaves. -/
theorem whatNoInstructionChanges : Obligations.WhatNoInstructionChanges := by
  intro i s t h
  have k := exec_keeps h
  have l := exec_leaves h
  refine ⟨⟨k.owner, k.lineOf, k.watch, k.params, k.phases, k.ipStart⟩, fun hr hw => ?_,
    fun hp => l.latches fun hk => ?_, fun hh => l.halted fun hk => hh (eq_hlt_of_kindOf hk), exec_trace h⟩
  · have b := l.bus fun hk =>
      (accessesPort_of_kindOf s hk).elim (fun ⟨w, p, e⟩ => hr w p e) fun ⟨w, p, e⟩ => hw w p e
    exact ⟨b.pending, b.a20, b.devices, b.replies, b.portCalls, b.busLog⟩
  · rw [isPrefixByte_of_kindOf hk] at hp; cases hp

/-! ## Reset values, the flag image, register views -/

/-- Settles O1: the constants of `State.reset`, and a reset pass over an empty device set. -/
theorem resetLeavesTheStatedValues : Obligations.ResetLeavesTheStatedValues :=
  ⟨rfl, rfl, rfl, rfl, rfl, rfl, rfl, rfl, rfl, rfl, rfl, rfl, fun _ => ⟨rfl, rfl⟩⟩

/-- Bit `k` of the flag image is entry `k` of its list of bits (R30). -/
theorem flagsImage_getLsbD (f : Flags) (k : Nat) : (flagsImage f).getLsbD k =
    [f.cf, true, f.pf, false, f.af, false, f.zf, f.sf, false, f.ifl, false, f.ofl, false, false, false, false].getD k
      false :=
  BitVec.getLsbD_ofBoolListLE

/-- Settles O16, bit by bit; bits 16 and up are outside the image. -/
theorem flagImageLayout : Obligations.FlagImageLayout := by
  refine ⟨fun f k => ?_, fun _ => rfl⟩
  rw [flagsImage_getLsbD]
  by_cases hk : k < 16
  · interval_cases k <;> rfl
  · rw [List.getD_eq_default _ _ (by simpa using hk)]
    split
    any_goals omega
    rfl

/-- Settles O17: a read is the view, a write writes the bits of its view and no others. -/
theorem registerViewsShareStorage : Obligations.RegisterViewsShareStorage :=
  ⟨State.readReg_eq_view, fun s w i v =>
    ⟨s.regs.write w i v, rfl, s.regs.write_wrote w i v, s.regs.view_write_same w i v⟩⟩

/-! ## Two states that differ in the watch address and the trace only do the same (R39, R570) -/

/-! ### The relation, on states, computations and outcomes -/

/-- The state with another watch address and another trace. -/
def State.rewatch (s : State) (w : Option Nat) (l : List TraceRecord) : State := { s with watch := w, trace := l }

/-- The two states differ in the watch address and the trace only. -/
def State.Alike (s t : State) : Prop := ∃ w l, t = s.rewatch w l

/-- Two computations end alike: in related values, whatever they trace, or in the same refusal. -/
inductive Eff.Alike {α : Type} (R : α → α → Prop) : Eff α → Eff α → Prop
  | ok {a b : α} (h : R a b) (l l' : List TraceRecord) : Eff.Alike R (.ok a l) (.ok b l')
  | error (r : Refusal) : Eff.Alike R (.error r) (.error r)

/-- Two outcomes are alike: next states that differ in the watch address and the trace only, or the same stop. -/
inductive OutcomeAlike : Outcome → Outcome → Prop
  | next {s t : State} (h : s.Alike t) : OutcomeAlike (.next s) (.next t)
  | fault (f : Fault) : OutcomeAlike (.fault f) (.fault f)
  | refused (r : Refusal) : OutcomeAlike (.refused r) (.refused r)

/-- A value read and the state after it: the same value, states alike. -/
def PopAlike {α : Type} (x y : α × State) : Prop := x.1 = y.1 ∧ x.2.Alike y.2

theorem State.Alike.emit {s t : State} (h : s.Alike t) (l l' : List TraceRecord) : (s.emit l).Alike (t.emit l') := by
  obtain ⟨w, k, rfl⟩ := h
  exact ⟨w, k ++ l', rfl⟩

theorem unwatched_eq_of_alike {x y : Outcome} (h : OutcomeAlike x y) : Claims.unwatched y = Claims.unwatched x := by
  cases h with
  | next h => obtain ⟨w, l, rfl⟩ := h; rfl
  | fault f => rfl
  | refused r => rfl

theorem ofEff_alike {x y : Eff State} (h : x.Alike State.Alike y) : OutcomeAlike (ofEff x) (ofEff y) := by
  cases h with
  | ok h l l' => exact .next (h.emit l l')
  | error r => exact .refused r

theorem Eff.Alike.after {α : Type} {R : α → α → Prop} {x y : Eff α} (h : x.Alike R y) (l l' : List TraceRecord) :
    (x.after l).Alike R (y.after l') := by
  cases h with
  | ok h k k' => exact .ok h _ _
  | error r => exact .error r

theorem Eff.Alike.bind {α β : Type} {R : α → α → Prop} {S : β → β → Prop} {x y : Eff α} {f g : α → Eff β}
    (h : x.Alike R y) (hf : ∀ a b, R a b → (f a).Alike S (g b)) : (x.bind f).Alike S (y.bind g) := by
  cases h with
  | error r => exact .error r
  | ok h l l' =>
    simp only [Eff.ok_bind]
    exact (hf _ _ h).after l l'

/-- A value that both computations read alike, then computations that agree for it. -/
theorem Eff.Alike.bind_eq {α β : Type} {S : β → β → Prop} {x y : Eff α} {f g : α → Eff β} (h : x.Alike Eq y)
    (hf : ∀ a, (f a).Alike S (g a)) : (x.bind f).Alike S (y.bind g) :=
  h.bind fun a _ e => e ▸ hf a

theorem Eff.Alike.pure {α : Type} (a : α) : (Eff.ok a []).Alike Eq (.ok a []) := .ok rfl _ _

/-- Two next states are alike when one is the other with another watch address and trace. -/
theorem Eff.Alike.state {s t : State} (h : s.Alike t) : (Eff.ok s []).Alike State.Alike (.ok t []) := .ok h _ _

/-! ### What the watch address and the trace have no part in -/

section
variable {s t : State} (h : s.Alike t)
include h

theorem State.Alike.ip : t.ip = s.ip := by obtain ⟨_, _, rfl⟩ := h; rfl
theorem State.Alike.owner : t.owner = s.owner := by obtain ⟨_, _, rfl⟩ := h; rfl
theorem State.Alike.lineOf : t.lineOf = s.lineOf := by obtain ⟨_, _, rfl⟩ := h; rfl
theorem State.Alike.params : t.params = s.params := by obtain ⟨_, _, rfl⟩ := h; rfl
theorem State.Alike.halted : t.halted = s.halted := by obtain ⟨_, _, rfl⟩ := h; rfl
theorem State.Alike.devices : t.devices = s.devices := by obtain ⟨_, _, rfl⟩ := h; rfl
theorem State.Alike.replies : t.replies = s.replies := by obtain ⟨_, _, rfl⟩ := h; rfl
theorem State.Alike.portCalls : t.portCalls = s.portCalls := by obtain ⟨_, _, rfl⟩ := h; rfl
theorem State.Alike.opsizePfx : t.opsizePfx = s.opsizePfx := by obtain ⟨_, _, rfl⟩ := h; rfl
theorem State.Alike.readReg (x : Width) (i : RegNum) : t.readReg x i = s.readReg x i := by
  obtain ⟨_, _, rfl⟩ := h; rfl
theorem State.Alike.sreg (i : SReg) : t.sreg i = s.sreg i := by obtain ⟨_, _, rfl⟩ := h; rfl
theorem State.Alike.deliverable : t.deliverable = s.deliverable := by obtain ⟨_, _, rfl⟩ := h; rfl
theorem State.Alike.backed (a : Linear) : t.backed a = s.backed a := by obtain ⟨_, _, rfl⟩ := h; rfl
theorem State.Alike.byteAt (a : Linear) : t.byteAt a = s.byteAt a := by obtain ⟨_, _, rfl⟩ := h; rfl
theorem State.Alike.accPair (x : Width) : t.accPair x = s.accPair x := by obtain ⟨_, _, rfl⟩ := h; rfl
theorem State.Alike.deviceSpec (d : DeviceId) : t.deviceSpec d = s.deviceSpec d := by obtain ⟨_, _, rfl⟩ := h; rfl
theorem State.Alike.vectorOfLine (n : Nat) : t.vectorOfLine n = s.vectorOfLine n := by obtain ⟨_, _, rfl⟩ := h; rfl
theorem State.Alike.stubUnaddressed (d : DeviceId) (p : Half) : t.stubUnaddressed d p = s.stubUnaddressed d p := by
  obtain ⟨_, _, rfl⟩ := h; rfl

end

/-! ### Memory and operands -/

section
variable (s : State) (w : Option Nat) (l : List TraceRecord)

theorem State.rewatch_alike : s.Alike (s.rewatch w l) := ⟨w, l, rfl⟩

theorem State.readByte_alike (a : Linear) : (s.readByte a).Alike Eq ((s.rewatch w l).readByte a) := by
  simp only [State.readByte_eq]
  change Eff.Alike Eq _ (if s.phys a < s.params.ramSize then _ else _)
  split
  · exact .ok rfl _ _
  · exact .error _

theorem State.writeByte_alike (a : Linear) (b : Byte) :
    (s.writeByte a b).Alike State.Alike ((s.rewatch w l).writeByte a b) := by
  simp only [State.writeByte_eq]
  change Eff.Alike _ _ (if s.phys a < s.params.ramSize then _ else _)
  split
  · exact .ok ⟨w, l, rfl⟩ _ _
  · exact .error _

theorem State.memRead_alike (a : Linear) (n : Nat) : (s.memRead a n).Alike Eq ((s.rewatch w l).memRead a n) := by
  induction n generalizing a with
  | zero => exact .pure 0
  | succ n ih => exact (s.readByte_alike w l a).bind_eq fun _ => (ih (a + 1)).bind_eq fun _ => .pure _

theorem State.segRead_alike (sel off : Half) (n : Nat) :
    (s.segRead sel off n).Alike Eq ((s.rewatch w l).segRead sel off n) := by
  induction n generalizing off with
  | zero => exact .pure 0
  | succ n ih => exact (s.memRead_alike w l _ 1).bind_eq fun _ => (ih (off + 1)).bind_eq fun _ => .pure _

theorem State.readSeg_alike (x : Width) (sel off : Half) :
    (s.readSeg x sel off).Alike Eq ((s.rewatch w l).readSeg x sel off) :=
  (s.segRead_alike w l sel off _).bind_eq fun _ => .pure _

theorem State.readE_alike (x : Width) (e : EOperand) : (s.readE x e).Alike Eq ((s.rewatch w l).readE x e) := by
  cases e with
  | reg i => exact .pure _
  | mem m => exact s.readSeg_alike w l x _ _

theorem State.readFarPointer_alike (m : MemOperand) :
    (s.readFarPointer m).Alike Eq ((s.rewatch w l).readFarPointer m) :=
  (s.readSeg_alike w l .w16 _ _).bind_eq fun _ => (s.readSeg_alike w l .w16 _ _).bind_eq fun _ => .pure _

theorem State.pop_alike (x : Width) : (s.pop x).Alike PopAlike ((s.rewatch w l).pop x) :=
  (s.segRead_alike w l _ _ _).bind_eq fun _ => .ok ⟨rfl, w, l, rfl⟩ _ _

end

section
variable {s t : State} (h : s.Alike t)
include h

theorem State.Alike.memWrite (a : Linear) (n : Nat) (v : Word) :
    (s.memWrite a n v).Alike State.Alike (t.memWrite a n v) := by
  induction n generalizing s t a v with
  | zero => exact .state h
  | succ n ih =>
    obtain ⟨w, l, rfl⟩ := h
    exact (s.writeByte_alike w l a _).bind fun _ _ h' => ih h' _ _

theorem State.Alike.segWrite (sel off : Half) (n : Nat) (v : Word) :
    (s.segWrite sel off n v).Alike State.Alike (t.segWrite sel off n v) := by
  induction n generalizing s t off v with
  | zero => exact .state h
  | succ n ih => exact (h.memWrite _ 1 v).bind fun _ _ h' => ih h' _ _

theorem State.Alike.writeSeg (x : Width) (sel off : Half) (v : BitVec x.bits) :
    (s.writeSeg x sel off v).Alike State.Alike (t.writeSeg x sel off v) := h.segWrite sel off _ _

theorem State.Alike.writeReg (x : Width) (i : RegNum) (v : BitVec x.bits) :
    (s.writeReg x i v).Alike (t.writeReg x i v) := by
  obtain ⟨w, l, rfl⟩ := h; exact ⟨w, l, rfl⟩

theorem State.Alike.setSreg (i : SReg) (v : Half) : (s.setSreg i v).Alike (t.setSreg i v) := by
  obtain ⟨w, l, rfl⟩ := h; exact ⟨w, l, rfl⟩

theorem State.Alike.setIp (v : Half) : (s.setIp v).Alike (t.setIp v) := by
  obtain ⟨w, l, rfl⟩ := h; exact ⟨w, l, rfl⟩

theorem State.Alike.setCsIp (sel off : Half) : (s.setCsIp sel off).Alike (t.setCsIp sel off) :=
  (h.setSreg .cs sel).setIp off

theorem State.Alike.setFlags (f : Flags) : (s.setFlags f).Alike (t.setFlags f) := by
  obtain ⟨w, l, rfl⟩ := h; exact ⟨w, l, rfl⟩

theorem State.Alike.writeE (x : Width) (e : EOperand) (v : BitVec x.bits) :
    (s.writeE x e v).Alike State.Alike (t.writeE x e v) := by
  cases e with
  | reg i => exact .state (h.writeReg x i v)
  | mem m =>
    obtain ⟨w, l, rfl⟩ := h
    exact State.Alike.writeSeg (s.rewatch_alike w l) x _ _ v

/-- A push is alike in alike states (R300). -/
theorem State.Alike.push (x : Width) (v : BitVec x.bits) : (s.push x v).Alike State.Alike (t.push x v) := by
  obtain ⟨w, l, rfl⟩ := h
  exact ((s.rewatch_alike w l).writeReg .w16 .r4 _).segWrite _ _ _ _

theorem State.Alike.pop (x : Width) : (s.pop x).Alike PopAlike (t.pop x) := by
  obtain ⟨w, l, rfl⟩ := h; exact s.pop_alike w l x

theorem State.Alike.readE (x : Width) (e : EOperand) : (s.readE x e).Alike Eq (t.readE x e) := by
  obtain ⟨w, l, rfl⟩ := h; exact s.readE_alike w l x e

end

/-! ### Interrupt entry and return -/

section
variable {s t : State} (h : s.Alike t)
include h

theorem State.Alike.interrupt (v : Byte) (ret : Half) :
    (s.interrupt v ret).Alike State.Alike (t.interrupt v ret) := by
  obtain ⟨w, l, rfl⟩ := h
  refine ((s.rewatch_alike w l).push .w16 _).bind fun s1 t1 h1 => ?_
  obtain ⟨w1, l1, rfl⟩ := h1
  refine (((s1.rewatch_alike w1 l1).setFlags _).push .w16 _).bind fun s3 t3 h3 =>
    (h3.push .w16 ret).bind fun s4 t4 h4 => ?_
  obtain ⟨w4, l4, rfl⟩ := h4
  exact (s4.memRead_alike w4 l4 _ 2).bind_eq fun _ => (s4.memRead_alike w4 l4 _ 2).bind_eq fun _ => .state ⟨w4, l4, rfl⟩

theorem State.Alike.loadFlags (v : Half) : (s.loadFlags v).Alike State.Alike (t.loadFlags v) := by
  unfold State.loadFlags
  split
  · exact .error _
  · exact .state (h.setFlags _)

theorem State.Alike.interruptReturn : s.interruptReturn.Alike State.Alike t.interruptReturn := by
  refine (h.pop .w16).bind ?_
  rintro ⟨off, s1⟩ ⟨_, t1⟩ ⟨rfl, h1⟩
  refine (h1.pop .w16).bind ?_
  rintro ⟨sel, s2⟩ ⟨_, t2⟩ ⟨rfl, h2⟩
  refine (h2.pop .w16).bind ?_
  rintro ⟨image, s3⟩ ⟨_, t3⟩ ⟨rfl, h3⟩
  exact (h3.setCsIp sel off).loadFlags image

end

/-! ### Ports and devices -/

/-- A state and a value: alike states, the same value. -/
def ReplyAlike {α : Type} (x y : State × α) : Prop := x.1.Alike y.1 ∧ x.2 = y.2

section
variable {s t : State} (h : s.Alike t)
include h

theorem State.Alike.log (ev : BusEvent) : (s.log ev).Alike (t.log ev) := by
  obtain ⟨w, l, rfl⟩ := h; exact ⟨w, l, rfl⟩

theorem State.Alike.setDevices (x : List (DeviceId × DeviceState)) :
    { s with devices := x }.Alike { t with devices := x } := by
  obtain ⟨w, l, rfl⟩ := h; exact ⟨w, l, rfl⟩

theorem State.Alike.raiseLine (n : Nat) : (s.raiseLine n).Alike (t.raiseLine n) := by
  unfold State.raiseLine State.lineHeld
  rw [h.lineOf]
  split
  · obtain ⟨w, l, rfl⟩ := h; exact ⟨w, l, rfl⟩
  · exact h

theorem State.Alike.raiseOwn (d : DeviceId) : (s.raiseOwn d).Alike (t.raiseOwn d) := by
  unfold State.raiseOwn
  rw [h.lineOf]
  split
  · exact h.raiseLine _
  · exact h

theorem State.Alike.clearOwn (d : DeviceId) : (s.clearOwn d).Alike (t.clearOwn d) := by
  unfold State.clearOwn
  rw [h.lineOf]
  split
  · obtain ⟨w, l, rfl⟩ := h; exact ⟨w, l, rfl⟩
  · exact h

theorem State.Alike.diskEvent (d : DeviceId) (n : Nat) (ev : DiskEvent) :
    (s.diskEvent d n ev).Alike (t.diskEvent d n ev) := by
  unfold State.diskEvent
  rw [h.devices]
  split
  · dsimp only
    split
    · exact (h.setDevices _).log _
    · exact h.setDevices _
  · exact h
  · exact h

theorem State.Alike.deviceAction (d : DeviceId) (n : Nat) (a : DeviceAction) :
    (s.deviceAction d n a).Alike (t.deviceAction d n a) := by
  cases a with
  | raise => exact h.raiseOwn d
  | clear => exact h.clearOwn d
  | gate b => obtain ⟨w, l, rfl⟩ := h; exact ⟨w, l, rfl⟩
  | disk ev => exact h.diskEvent d n ev

theorem State.Alike.deviceActions (d : DeviceId) (n : Nat) (as : List DeviceAction) :
    (s.deviceActions d n as).Alike (t.deviceActions d n as) := by
  unfold State.deviceActions
  induction as generalizing s t with
  | nil => exact h
  | cons a as ih => exact ih (h.deviceAction d n a)

theorem State.Alike.nextReply : ReplyAlike s.nextReply t.nextReply := by
  unfold State.nextReply
  rw [h.replies, h.portCalls]
  obtain ⟨w, l, rfl⟩ := h
  split
  · exact ⟨⟨w, l, rfl⟩, rfl⟩
  · exact ⟨⟨w, l, rfl⟩, rfl⟩

theorem State.Alike.noteAddressWrite (d : DeviceId) (p : Half) :
    (s.noteAddressWrite d p).Alike (t.noteAddressWrite d p) := by
  unfold State.noteAddressWrite
  rw [h.devices, h.deviceSpec]
  split
  · split
    · exact h.setDevices _
    · exact h
  · exact h

theorem State.Alike.deviceRead (d : DeviceId) (p : Half) (n : Nat) :
    ReplyAlike (s.deviceRead d p n) (t.deviceRead d p n) := by
  have h1 := h.log (.deviceRead d p n)
  have h2 := h1.nextReply
  unfold State.deviceRead
  dsimp only
  rw [h1.stubUnaddressed]
  split
  · exact ⟨h1, rfl⟩
  · generalize (s.log _).nextReply = x at h2
    generalize (t.log _).nextReply = y at h2
    obtain ⟨s2, r⟩ := x
    obtain ⟨t2, _⟩ := y
    obtain ⟨h2, rfl⟩ := h2
    cases r with
    | answer v as => exact ⟨h2.deviceActions d n as, rfl⟩
    | unimplemented => exact ⟨h2.log _, rfl⟩

theorem State.Alike.deviceWrite (d : DeviceId) (p : Half) (n : Nat) (v : Word) :
    (s.deviceWrite d p n v).Alike (t.deviceWrite d p n v) := by
  have h2 := (h.log (.deviceWrite d p n v)).nextReply
  unfold State.deviceWrite
  generalize (s.log _).nextReply = x at h2 ⊢
  generalize (t.log _).nextReply = y at h2 ⊢
  obtain ⟨s2, r⟩ := x
  obtain ⟨t2, _⟩ := y
  obtain ⟨h2, rfl⟩ := h2
  cases r with
  | answer v as => exact (h2.noteAddressWrite d p).deviceActions d n as
  | unimplemented => exact h2.log _

theorem State.Alike.portRead (p : Half) (n : Nat) : ReplyAlike (s.portRead p n) (t.portRead p n) := by
  unfold State.portRead State.ownerOf
  rw [h.owner]
  split
  · exact ⟨h.log _, rfl⟩
  · exact h.deviceRead _ p n

theorem State.Alike.portWrite (p : Half) (n : Nat) (v : Word) : (s.portWrite p n v).Alike (t.portWrite p n v) := by
  unfold State.portWrite State.ownerOf
  rw [h.owner]
  split
  · exact h.log _
  · exact h.deviceWrite _ p n v

theorem State.Alike.portIn (x : Width) (p : Half) : (portIn x p s).Alike (portIn x p t) := by
  obtain ⟨hs, hv⟩ := h.portRead p x.bytes
  unfold Machine.portIn
  dsimp only
  rw [hv]
  exact hs.writeReg x .r0 _

theorem State.Alike.portOut (x : Width) (p : Half) : (portOut x p s).Alike (portOut x p t) := by
  obtain ⟨w, l, rfl⟩ := h
  exact (s.rewatch_alike w l).portWrite p _ _

end

/-! ### The shared operations of the instructions -/

section
variable {s t : State} (h : s.Alike t)
include h

theorem State.Alike.aluOnE (op : AluOp) (x : Width) (e : EOperand) (b : BitVec x.bits) :
    (aluOnE op x e b s).Alike State.Alike (aluOnE op x e b t) := by
  refine (h.readE x e).bind_eq fun a => ?_
  obtain ⟨w, l, rfl⟩ := h
  have h := s.rewatch_alike w l
  dsimp only
  split
  · exact .state (h.setFlags _)
  · exact (h.setFlags _).writeE x e _

theorem State.Alike.aluGE (op : AluOp) (x : Width) (g : RegNum) (e : EOperand) :
    OutcomeAlike (aluGE op x g e s) (aluGE op x g e t) :=
  ofEff_alike ((h.readE x e).bind_eq fun b => h.aluOnE op x _ b)

theorem State.Alike.testE (x : Width) (e : EOperand) (b : BitVec x.bits) :
    OutcomeAlike (testE x e b s) (testE x e b t) := by
  refine ofEff_alike ((h.readE x e).bind_eq fun a => ?_)
  obtain ⟨w, l, rfl⟩ := h
  exact .state ((s.rewatch_alike w l).setFlags _)

theorem State.Alike.unaryE (x : Width) (f : BitVec x.bits → Flags → BitVec x.bits × Flags) (e : EOperand) :
    OutcomeAlike (unaryE x f e s) (unaryE x f e t) := by
  refine ofEff_alike ((h.readE x e).bind_eq fun a => ?_)
  obtain ⟨w, l, rfl⟩ := h
  exact ((s.rewatch_alike w l).setFlags _).writeE x e _

theorem State.Alike.mulE (x : Width) (e : EOperand) : OutcomeAlike (mulE x e s) (mulE x e t) := by
  refine ofEff_alike ((h.readE x e).bind_eq fun b => ?_)
  obtain ⟨w, l, rfl⟩ := h
  exact .state ⟨w, l, rfl⟩

theorem State.Alike.imulE (x : Width) (e : EOperand) : OutcomeAlike (imulE x e s) (imulE x e t) := by
  refine ofEff_alike ((h.readE x e).bind_eq fun b => ?_)
  obtain ⟨w, l, rfl⟩ := h
  exact .state ⟨w, l, rfl⟩

theorem State.Alike.divideError : (divideError s).Alike State.Alike (divideError t) := by
  obtain ⟨w, l, rfl⟩ := h
  exact (s.rewatch_alike w l).interrupt 0 _

theorem State.Alike.divE (x : Width) (e : EOperand) : OutcomeAlike (divE x e s) (divE x e t) := by
  refine ofEff_alike ((h.readE x e).bind_eq fun d => ?_)
  dsimp only
  rw [h.accPair]
  split
  · exact h.divideError
  · obtain ⟨w, l, rfl⟩ := h
    exact .state ⟨w, l, rfl⟩

theorem State.Alike.idivE (x : Width) (e : EOperand) : OutcomeAlike (idivE x e s) (idivE x e t) := by
  refine ofEff_alike ((h.readE x e).bind_eq fun d => ?_)
  dsimp only
  rw [h.accPair]
  split
  · exact h.divideError
  · obtain ⟨w, l, rfl⟩ := h
    exact .state ⟨w, l, rfl⟩

theorem State.Alike.shiftE (op : ShiftOp) (x : Width) (e : EOperand) (c : Byte) :
    OutcomeAlike (shiftE op x e c s) (shiftE op x e c t) := by
  refine ofEff_alike ((h.readE x e).bind_eq fun a => ?_)
  dsimp only
  split
  · exact .state h
  · obtain ⟨w, l, rfl⟩ := h
    exact ((s.rewatch_alike w l).setFlags _).writeE x e _

theorem State.Alike.loadReg {x : Width} (i : RegNum) {a b : Eff (BitVec x.bits)} (hv : a.Alike Eq b) :
    (loadReg x i a s).Alike State.Alike (loadReg x i b t) :=
  hv.bind_eq fun _ => .state (h.writeReg x i _)

theorem State.Alike.loadSreg (i : SReg) {a b : Eff (BitVec Width.w16.bits)} (hv : a.Alike Eq b) :
    (loadSreg i a s).Alike State.Alike (loadSreg i b t) :=
  hv.bind_eq fun _ => .state (h.setSreg i _)

theorem State.Alike.xchgEG (x : Width) (e : EOperand) (g : RegNum) :
    (xchgEG x e g s).Alike State.Alike (xchgEG x e g t) := by
  refine (h.readE x e).bind_eq fun a => ?_
  obtain ⟨w, l, rfl⟩ := h
  exact ((s.rewatch_alike w l).writeE x e _).bind fun _ _ h' => .state (h'.writeReg x g a)

theorem State.Alike.pushE (x : Width) (e : EOperand) : (pushE x e s).Alike State.Alike (pushE x e t) :=
  (h.readE x e).bind_eq fun v => h.push x v

theorem State.Alike.popE (x : Width) (e : EOperand) : (popE x e s).Alike State.Alike (popE x e t) := by
  refine (h.pop x).bind ?_
  rintro ⟨v, s'⟩ ⟨_, t'⟩ ⟨rfl, h'⟩
  exact h'.writeE x e v

theorem State.Alike.popSreg (i : SReg) : (popSreg i s).Alike State.Alike (popSreg i t) := by
  refine (h.pop .w16).bind ?_
  rintro ⟨v, s'⟩ ⟨_, t'⟩ ⟨rfl, h'⟩
  exact .state (h'.setSreg i v)

theorem State.Alike.popFlags : (popFlags s).Alike State.Alike (popFlags t) := by
  refine (h.pop .w16).bind ?_
  rintro ⟨v, s'⟩ ⟨_, t'⟩ ⟨rfl, h'⟩
  exact h'.loadFlags v

theorem State.Alike.jumpIf (b : Bool) (rel : Byte) : (jumpIf b rel s).Alike (jumpIf b rel t) := by
  obtain ⟨w, l, rfl⟩ := h
  cases b <;> exact ⟨w, l, rfl⟩

theorem State.Alike.loopWhile (b : Bool) (rel : Byte) : (loopWhile b rel s).Alike (loopWhile b rel t) := by
  obtain ⟨w, l, rfl⟩ := h
  exact ((s.rewatch_alike w l).writeReg .w16 .r1 _).jumpIf _ rel

theorem State.Alike.signExtendAcc : (signExtendAcc s).Alike (signExtendAcc t) := by
  unfold Machine.signExtendAcc
  rw [h.opsizePfx, h.readReg, h.readReg]
  split
  · exact h.writeReg .w32 .r0 _
  · exact h.writeReg .w16 .r0 _

theorem State.Alike.jumpNear {a b : Eff (BitVec Width.w16.bits)} (hv : a.Alike Eq b) :
    (jumpNear a s).Alike State.Alike (jumpNear b t) :=
  hv.bind_eq fun v => .state (h.setIp v)

theorem State.Alike.jumpFar {a b : Eff (Half × Half)} (hv : a.Alike Eq b) :
    (jumpFar a s).Alike State.Alike (jumpFar b t) :=
  hv.bind_eq fun v => .state (h.setCsIp v.2 v.1)

theorem State.Alike.callNear {a b : Eff (BitVec Width.w16.bits)} (hv : a.Alike Eq b) :
    (callNear a s).Alike State.Alike (callNear b t) := by
  obtain ⟨w, l, rfl⟩ := h
  exact hv.bind_eq fun v => ((s.rewatch_alike w l).push .w16 _).bind fun _ _ h' => .state (h'.setIp v)

theorem State.Alike.callFar {a b : Eff (Half × Half)} (hv : a.Alike Eq b) :
    (callFar a s).Alike State.Alike (callFar b t) := by
  obtain ⟨w, l, rfl⟩ := h
  exact hv.bind_eq fun v => ((s.rewatch_alike w l).push .w16 _).bind fun _ _ h1 =>
    (h1.push .w16 _).bind fun _ _ h2 => .state (h2.setCsIp v.2 v.1)

theorem State.Alike.retNear (n : Half) : (retNear n s).Alike State.Alike (retNear n t) := by
  refine (h.pop .w16).bind ?_
  rintro ⟨v, s'⟩ ⟨_, t'⟩ ⟨rfl, w, l, rfl⟩
  exact .state ⟨w, l, rfl⟩

theorem State.Alike.retFar (n : Half) : (retFar n s).Alike State.Alike (retFar n t) := by
  refine (h.pop .w16).bind ?_
  rintro ⟨v, s1⟩ ⟨_, t1⟩ ⟨rfl, h1⟩
  refine (h1.pop .w16).bind ?_
  rintro ⟨u, s2⟩ ⟨_, t2⟩ ⟨rfl, w, l, rfl⟩
  exact .state ⟨w, l, rfl⟩

end

/-! ### Every instruction -/

/-- An instruction does the same in alike states (R39, R570). -/
theorem exec_alike (i : Instr) {s t : State} (h : s.Alike t) : OutcomeAlike (exec i s) (exec i t) := by
  obtain ⟨w, l, rfl⟩ := h
  have h := s.rewatch_alike w l
  cases i
  case addEbGb | addEvGv | addEbIb | addEvIv | addEvIbs | orEbGb | orEvGv | orEbIb | orEvIv | orEvIbs | adcEbGb
      | adcEvGv | adcEbIb | adcEvIv | adcEvIbs | sbbEbGb | sbbEvGv | sbbEbIb | sbbEvIv | sbbEvIbs | andEbGb | andEvGv | andEbIb
      | andEvIv | andEvIbs | subEbGb | subEvGv | subEbIb | subEvIv | subEvIbs | xorEbGb | xorEvGv | xorEbIb | xorEvIv
      | xorEvIbs | cmpEbGb | cmpEvGv | cmpEbIb | cmpEvIv | cmpEvIbs =>
    exact ofEff_alike (h.aluOnE _ _ _ _)
  case addAlIb | addEaxIv | orAlIb | orEaxIv | adcAlIb | adcEaxIv | sbbAlIb | sbbEaxIv | andAlIb | andEaxIv | subAlIb
      | subEaxIv | xorAlIb | xorEaxIv | cmpAlIb | cmpEaxIv =>
    -- the destination is a register: the outcome is a next state by computation
    exact .next ⟨_, _, rfl⟩
  case addGbEb | addGvEv | orGbEb | orGvEv | adcGbEb | adcGvEv | sbbGbEb | sbbGvEv | andGbEb | andGvEv | subGbEb
      | subGvEv | xorGbEb | xorGvEv | cmpGbEb | cmpGvEv =>
    exact h.aluGE _ _ _ _
  case testEbGb | testEvGv | testEbIb | testEvIv => exact h.testE _ _ _
  case testAlIb | testEaxIv => exact .next ⟨_, _, rfl⟩
  case incR | decR => exact .next ⟨_, _, rfl⟩
  case incEb | incEv | decEb | decEv | negEb | negEv | notEb | notEv => exact h.unaryE _ _ _
  case mulEb | mulEv => exact h.mulE _ _
  case imulEb | imulEv => exact h.imulE _ _
  case divEb | divEv => exact h.divE _ _
  case idivEb | idivEv => exact h.idivE _ _
  case rolEbIb | rorEbIb | rclEbIb | rcrEbIb | shlEbIb | shrEbIb | sarEbIb | rolEvIb | rorEvIb | rclEvIb | rcrEvIb
      | shlEvIb | shrEvIb | sarEvIb | rolEbOne | rorEbOne | rclEbOne | rcrEbOne | shlEbOne | shrEbOne | sarEbOne
      | rolEvOne | rorEvOne | rclEvOne | rcrEvOne | shlEvOne | shrEvOne | sarEvOne | rolEbCl | rorEbCl | rclEbCl
      | rcrEbCl | shlEbCl | shrEbCl | sarEbCl | rolEvCl | rorEvCl | rclEvCl | rcrEvCl | shlEvCl | shrEvCl | sarEvCl =>
    exact h.shiftE _ _ _ _
  case movEbGb | movEvGv | movEwSw | movEbIb | movEvIv => exact ofEff_alike (h.writeE _ _ _)
  case movObAl | movOvEax => exact ofEff_alike (h.writeSeg _ _ _ _)
  case movGbEb | movGvEv => exact ofEff_alike (h.loadReg _ (h.readE _ _))
  case movAlOb | movEaxOv | xlat => exact ofEff_alike (h.loadReg _ (s.readSeg_alike w l _ _ _))
  case movEsEw | movSsEw | movDsEw => exact ofEff_alike (h.loadSreg _ (h.readE _ _))
  case xchgEbGb | xchgEvGv => exact ofEff_alike (h.xchgEG _ _ _)
  case pushEs | pushCs | pushSs | pushDs | pushR | pushIv | pushIbs | pushf => exact ofEff_alike (h.push _ _)
  case pushEv => exact ofEff_alike (h.pushE _ _)
  case popR | popEv => exact ofEff_alike (h.popE _ _)
  case popEs | popSs | popDs => exact ofEff_alike (h.popSreg _)
  case popf => exact ofEff_alike h.popFlags
  case cbw => exact .next h.signExtendAcc
  case jo | jno | jb | jae | je | jne | jbe | ja | js | jns | jp | jnp | jl | jge | jle | jg | jcxz =>
    exact .next (h.jumpIf _ _)
  case loopne | loope | loop => exact .next (h.loopWhile _ _)
  case jmpEv => exact ofEff_alike (h.jumpNear (h.readE _ _))
  case jmpMp => exact ofEff_alike (h.jumpFar (s.readFarPointer_alike w l _))
  case callJv => exact ofEff_alike (h.callNear (.pure _))
  case callEv => exact ofEff_alike (h.callNear (h.readE _ _))
  case callAp => exact ofEff_alike (h.callFar (.pure _))
  case callMp => exact ofEff_alike (h.callFar (s.readFarPointer_alike w l _))
  case ret | retIw => exact ofEff_alike (h.retNear _)
  case retf | retfIw => exact ofEff_alike (h.retFar _)
  case int3 | intIb => exact ofEff_alike (h.interrupt _ _)
  case into =>
    change OutcomeAlike (if s.flags.ofl then _ else _) (if s.flags.ofl then _ else _)
    split
    · exact ofEff_alike (h.interrupt 4 _)
    · exact .next h
  case iret => exact ofEff_alike h.interruptReturn
  case inAlIb | inEaxIb | inAlDx | inEaxDx => exact .next (h.portIn _ _)
  case outIbAl | outIbEax | outDxAl | outDxEax => exact .next (h.portOut _ _)
  -- writes of a register, the flags, ip or a latch with no access to memory or a port
  all_goals exact .next ⟨w, l, rfl⟩

/-! ### The cycle -/

section
variable {s t : State} (h : s.Alike t)
include h

theorem State.Alike.advance (n : Nat) : (s.advance n).Alike (t.advance n) := by
  obtain ⟨w, l, rfl⟩ := h
  exact ((s.rewatch_alike w l).emit _ _).setIp _

theorem State.Alike.startDecode : s.startDecode.Alike t.startDecode := by
  obtain ⟨w, l, rfl⟩ := h; exact ⟨w, l, rfl⟩

theorem State.Alike.fetchBytes (n : Nat) (off : Half) : t.fetchBytes n off = s.fetchBytes n off := by
  induction n generalizing off with
  | zero => rfl
  | succ n ih =>
    unfold State.fetchBytes
    rw [ih, h.sreg, h.backed, h.byteAt]

theorem State.Alike.decodeFault (bytes : List Byte) (info : DecodeInfo) :
    OutcomeAlike (s.decodeFault bytes info) (t.decodeFault bytes info) := by
  unfold State.decodeFault
  rw [h.params, h.sreg, h.ip]
  split
  · exact .fault _
  · exact ofEff_alike (((h.emit _ _).log _).interrupt 6 s.ip)

theorem State.Alike.pastWindow (window : List Byte) : OutcomeAlike (s.pastWindow window) (t.pastWindow window) := by
  unfold State.pastWindow
  dsimp only
  rw [h.sreg, h.ip, h.backed, h.byteAt]
  split
  · exact h.decodeFault _ _
  · exact .refused _

/-- Decoding and executing one instruction with its prefixes does the same from alike states (R101, R105). -/
theorem State.Alike.runUnits (window : List Byte) (fuel : Nat) (bs : List Byte) {u v : State} (hu : u.Alike v) :
    OutcomeAlike (runUnits s window fuel bs u) (runUnits t window fuel bs v) := by
  induction fuel generalizing bs u v with
  | zero => exact h.pastWindow window
  | succ fuel ih =>
    unfold Machine.runUnits
    rw [hu.opsizePfx]
    split
    · exact h.pastWindow window
    · exact h.decodeFault _ _
    · rename_i i n _
      have he := exec_alike i (hu.advance n)
      generalize exec i (u.advance n) = x at he
      generalize exec i (v.advance n) = y at he
      split
      · cases he with
        | next h' => exact ih _ h'
        | fault f => exact .fault f
        | refused r => exact .refused r
      · exact he

theorem State.Alike.executeOne : OutcomeAlike (executeOne s) (executeOne t) := by
  have hw : t.startDecode.fetchWindow = s.startDecode.fetchWindow := by
    unfold State.fetchWindow
    rw [h.startDecode.params, h.startDecode.ip, h.startDecode.fetchBytes]
  unfold Machine.executeOne
  dsimp only
  rw [hw]
  exact h.startDecode.runUnits _ _ _ h.startDecode

/-- A cycle does the same in alike states (R39, R570). -/
theorem State.Alike.cycle : OutcomeAlike (cycle s) (cycle t) := by
  unfold Machine.cycle
  rw [h.deliverable, h.ip, h.halted]
  split
  · rw [h.vectorOfLine]
    exact ofEff_alike (h.interrupt _ _)
  · split
    · exact .next h
    · exact h.executeOne

end

/-! ### The statement -/

theorem State.watchFlags_iff (s : State) (a : Linear) : s.watchFlags a = true ↔ s.watch = some (s.phys a) :=
  beq_iff_eq

theorem State.flag_of_watch {s : State} {a : Linear} (h : s.watch = some (s.phys a)) (k : AccessKind) :
    s.flag k a = [⟨s.phys a, k⟩] :=
  if_pos ((s.watchFlags_iff a).2 h)

theorem State.flag_of_not_watch {s : State} {a : Linear} (h : s.watch ≠ some (s.phys a)) (k : AccessKind) :
    s.flag k a = [] :=
  if_neg fun hf => h ((s.watchFlags_iff a).1 hf)

/-- Settles O27: instructions and cycles do the same in alike states; a byte access carries the record `State.flag`
gives it. -/
theorem watchAddressChangesNothing : Obligations.WatchAddressChangesNothing := by
  refine ⟨fun i s w l => unwatched_eq_of_alike (exec_alike i (s.rewatch_alike w l)),
    fun s w l => unwatched_eq_of_alike (s.rewatch_alike w l).cycle, State.watchFlags_iff, fun s a b hb => ?_⟩
  rw [State.readByte_eq, State.writeByte_eq, if_pos hb, if_pos hb]
  refine ⟨fun hw => ?_, fun hw => ?_⟩
  · rw [State.flag_of_watch hw, State.flag_of_watch hw]
    exact ⟨rfl, rfl⟩
  · rw [State.flag_of_not_watch hw, State.flag_of_not_watch hw]
    exact ⟨rfl, rfl⟩

end Sys2Proof.Machine

namespace Sys2Proof.Machine

/-! ## Memory: stores and loads, refusals, completion with full RAM, the inputs between cycles -/

/-! ### Addresses and accesses (R61 to R69) -/

theorem State.sp_eq_claims_sp (s : State) : s.sp = Claims.sp s := s.readReg_eq_view .w16 .r4

/-- Settles O18: addresses as numbers; modulo 2^20 the address 0x100000 is 0. -/
theorem gateWrapsAtOneMegabyte : Obligations.GateWrapsAtOneMegabyte := by
  refine ⟨linear_toNat, State.phys_eq, fun s => ?_⟩
  rw [State.phys_eq, State.phys_eq]
  cases s.a20 <;> decide

/-- A segment store on backed bytes, and the load after it (R66, R67). -/
theorem State.writeSeg_readSeg {s : State} {sel off : Half} {w : Width} (v : BitVec w.bits)
    (hb : s.segBacked sel off w.bytes) :
    ∃ m, s.writeSeg w sel off v = .ok { s with mem := m } (s.segRecords .write sel off w.bytes) ∧
      s.Stores sel off w.bytes v m ∧
      ({ s with mem := m } : State).readSeg w sel off = .ok v (s.segRecords .read sel off w.bytes) := by
  rcases s.writeSeg_cases w sel off v with ⟨-, m, hw, hs, -⟩ | ⟨hn, -⟩
  · exact ⟨m, hw, hs, State.readSeg_ok (s := { s with mem := m }) hb hs.holds⟩
  · exact absurd hb hn

/-- Settles O20: what each store leaves in memory, and what each load reads there. -/
theorem storeThenLoadReturnsTheValue : Obligations.StoreThenLoadReturnsTheValue := by
  refine ⟨fun s w sel off v hb => ⟨State.writeSeg_readSeg v hb, ?_⟩, fun s a n v hn hb => ⟨?_, ?_⟩⟩
  · rcases s.readSeg_cases w sel off with ⟨-, h⟩ | ⟨hn, -⟩
    · exact h
    · exact absurd hb hn
  · obtain ⟨m, hw, hs, -⟩ := s.memWrite_ok a n v (by omega) hb
    exact ⟨m, hw, hs⟩
  · rcases s.memRead_cases a n hn with ⟨-, h⟩ | ⟨hn, -⟩
    · exact h
    · exact absurd hb hn

/-! ### Bytes that no memory backs (R63, U6) -/

theorem State.readE_error {s : State} {w : Width} {e : EOperand} (h : s.operandBacked w e = false) :
    s.readE w e = .error .memoryRange :=
  (s.readE_cases w e).elim (fun hb => absurd (h.symm.trans hb.1) nofun) And.right

theorem State.writeE_error {s : State} {w : Width} {e : EOperand} (v : BitVec w.bits)
    (h : s.operandBacked w e = false) : s.writeE w e v = .error .memoryRange :=
  (s.writeE_cases w e v).elim (fun hb => absurd (h.symm.trans hb.1) nofun) And.right

theorem State.memRead_error {s : State} {a : Linear} {n : Nat} (hn : n ≤ 4) (h : ¬ s.absBacked a n) :
    s.memRead a n = .error .memoryRange :=
  (s.memRead_cases a n hn).elim (fun hb => absurd hb.1 h) And.right

theorem State.push_error {s : State} {w : Width} (v : BitVec w.bits)
    (h : ¬ s.segBacked s.sregs.ss (s.sp - BitVec.ofNat 16 w.bytes) w.bytes) : s.push w v = .error .memoryRange :=
  (s.push_cases w v).elim (fun hb => absurd hb.1 h) And.right

theorem State.pop_error {s : State} {w : Width} (h : ¬ s.segBacked s.sregs.ss s.sp w.bytes) :
    s.pop w = .error .memoryRange :=
  (s.pop_cases w).elim (fun hb => absurd hb.1 h) And.right

/-- Settles O21: each kind of access in its unbacked case; with full RAM there is no such case. -/
theorem unbackedAccessIsRefused : Obligations.UnbackedAccessIsRefused := by
  refine ⟨fun s w e v h => ⟨State.readE_error h, State.writeE_error v h⟩,
    fun s a n v hn h => ⟨State.memRead_error hn h, s.memWrite_error a n v h⟩, fun s w v h => ?_, fun s w h => ?_,
    fun s h => ⟨h.segBacked, h.operandBacked⟩⟩
  · rw [← s.sp_eq_claims_sp] at h
    exact State.push_error v h
  · rw [← s.sp_eq_claims_sp] at h
    exact State.pop_error h

/-! ### Completion with full RAM (R63, R540) -/

/-- With full RAM an instruction completes, unless it loads a flag image and refuses it. -/
theorem exec_completes_or_refuses_image (i : Instr) {s : State} (hf : s.fullRam) :
    (∃ t, exec i s = .next t) ∨ kindOf i = .image ∧ exec i s = .refused .unsupportedFlagBit := by
  have h := exec_does i s
  cases hx : exec i s with
  | next t => exact .inl ⟨t, rfl⟩
  | fault f => rw [hx] at h; exact h.elim
  | refused r =>
    rw [hx] at h
    rcases h with hn | ⟨hk, rfl⟩
    · exact absurd hf hn
    · exact .inr ⟨hk, rfl⟩

theorem eq_popf_or_iret_of_kindOf {i : Instr} (h : kindOf i = .image) : i = .popf ∨ i = .iret := by
  cases i <;> cases h
  case popf => exact .inl rfl
  case iret => exact .inr rfl

theorem unsupportedImage_eq_false {v : Half} (h8 : v.getLsbD 8 = false) (h10 : v.getLsbD 10 = false) :
    unsupportedImage v = false := by
  rw [unsupportedImage, h8, h10]
  rfl

/-- Everything POPF can do with the image on the stack: load it, or refuse it (R309, U7). -/
theorem popFlags_eq {s : State} {image : Half} (hb : s.segBacked s.sregs.ss s.sp 2)
    (hh : s.Holds s.sregs.ss s.sp 2 image) :
    popFlags s =
      if unsupportedImage image then .error .unsupportedFlagBit
      else .ok { s with regs := s.regs.write .w16 .r4 (s.sp + 2), flags := flagsOfImage image }
        (s.segRecords .read s.sregs.ss s.sp 2) := by
  unfold popFlags State.loadFlags
  rw [State.pop_ok (w := .w16) hb hh, Eff.ok_bind]
  split
  · rfl
  · rw [Eff.after_ok, List.append_nil]; rfl

/-- A byte of the upper part of two values side by side. -/
theorem byteOf_append_high {b c j : Nat} (hb : b = 8 * j) (hi : BitVec c) (lo : BitVec b) (k : Nat) :
    byteOf (hi ++ lo) (j + k) = byteOf hi k := by
  subst hb
  apply BitVec.eq_of_getLsbD_eq
  intro i hi'
  simp only [byteOf, BitVec.getLsbD_extractLsb', BitVec.getLsbD_append]
  rw [if_neg (by omega), show 8 * (j + k) + i - 8 * j = 8 * k + i by omega]

/-- The upper part of a value in memory lies above the lower part (R66, R68). -/
theorem State.Holds.high {s : State} {sel off : Half} {j n b c : Nat} {lo : BitVec b} {hi : BitVec c} (hb : b = 8 * j)
    (h : s.Holds sel off (j + n) (hi ++ lo)) : s.Holds sel (off + BitVec.ofNat 16 j) n hi := fun k hk => by
  rw [State.byteAddr_add, h (j + k) (by omega), byteOf_append_high hb]

/-- The return from an interrupt refuses no supported image (R373). -/
theorem State.interruptReturn_ok {s : State} {image : Half} (hb : s.segBacked s.sregs.ss s.sp 6)
    (hh : s.Holds s.sregs.ss (s.sp + 4) 2 image) (hi : unsupportedImage image = false) :
    ∃ t, s.interruptReturn = .ok t (s.segRecords .read s.sregs.ss s.sp 6) := by
  rcases s.interruptReturn_cases with ⟨-, off, sel, image', hm, he⟩ | ⟨hn, -⟩
  · have himage : image' = image := State.Holds.unique (w := .w16) (State.Holds.high (j := 4) rfl hm) hh
    rw [himage, hi] at he
    exact ⟨_, he⟩
  · exact absurd hb hn

/-- Settles O23: only POPF and IRET can be refused with full RAM, and neither refuses a supported image. -/
theorem everyInstructionCompletesWithFullRam : Obligations.EveryInstructionCompletesWithFullRam := by
  intro i s hf hpopf hiret
  rcases exec_completes_or_refuses_image i hf with h | ⟨hk, -⟩
  · exact h
  rcases eq_popf_or_iret_of_kindOf hk with rfl | rfl
  · obtain ⟨image, hh, h8, h10⟩ := hpopf rfl
    rw [← s.sp_eq_claims_sp] at hh
    have hp := popFlags_eq (hf.segBacked _ _ _) hh
    rw [unsupportedImage_eq_false h8 h10] at hp
    exact ⟨_, congrArg ofEff hp⟩
  · obtain ⟨image, hh, h8, h10⟩ := hiret rfl
    rw [← s.sp_eq_claims_sp] at hh
    obtain ⟨t, ht⟩ := State.interruptReturn_ok (hf.segBacked _ _ _) hh (unsupportedImage_eq_false h8 h10)
    exact ⟨_, congrArg ofEff ht⟩

/-! ### Inputs between cycles (R79, R503) -/

theorem State.setBytes_ok (s : State) {addr : Nat} {bs : List Byte} (h : addr + bs.length ≤ s.params.ramSize) :
    s.setBytes addr bs = .ok { s with mem := s.mem.writeBytes addr bs } :=
  if_pos (.inr h)

theorem State.setBytes_error (s : State) {addr : Nat} {bs : List Byte} (hne : bs ≠ [])
    (h : s.params.ramSize < addr + bs.length) : s.setBytes addr bs = .error .memoryRange :=
  if_neg fun hc => hc.elim hne (by omega)

/-- A step whose inputs are not refused: the cycle, from the state they leave (R500, R503). -/
theorem step_of_inputs_ok {s t : State} {p : List Input} {ps : List (List Input)} (h : s.phases = p :: ps)
    (hi : ({ s with phases := ps } : State).inputs p = .ok t) : step s = cycle t := by
  unfold step stepOnce State.environmentPhase
  simp only [h, hi]

theorem step_of_inputs_error {s : State} {p : List Input} {ps : List (List Input)} {r : Refusal}
    (h : s.phases = p :: ps) (hi : ({ s with phases := ps } : State).inputs p = .error r) : step s = .refused r := by
  unfold step stepOnce State.environmentPhase
  simp only [h, hi]

theorem State.inputs_cons_ok {s t : State} {i : Input} (h : s.input i = .ok t) (is : List Input) :
    s.inputs (i :: is) = t.inputs is := by
  rw [State.inputs, h]; rfl

theorem State.inputs_cons_error {s : State} {i : Input} {r : Refusal} (h : s.input i = .error r) (is : List Input) :
    s.inputs (i :: is) = .error r := by
  rw [State.inputs, h]; rfl

/-! ### The `reset()` of one device (R421, R423, R531, R556) -/

theorem State.id_of_deviceSpec {s : State} {d : DeviceId} {x : DeviceSpec} (h : s.deviceSpec d = some x) : x.id = d :=
  beq_iff_eq.1 (List.find?_some (p := fun y : DeviceSpec => y.id == d) h)

theorem State.resetOne_of_some {s : State} {d : DeviceId} {x : DeviceSpec} (h : s.deviceSpec d = some x) :
    s.resetOne d = s.deviceReset x := by
  rw [State.resetOne, h]

theorem State.resetOne_of_none {s : State} {d : DeviceId} (h : s.deviceSpec d = none) : s.resetOne d = s := by
  rw [State.resetOne, h]

/-- Who owns a port after a list of registrations by one device (R421). -/
theorem State.ownerOf_registerPorts (s : State) (d : DeviceId) (l : List Half) (p : Half) :
    (l.foldl (fun t q => t.registerPort d q) s).ownerOf p = if p ∈ l then some d else s.ownerOf p := by
  induction l generalizing s with
  | nil => simp
  | cons q l ih =>
    rw [List.foldl_cons, ih, State.ownerOf_registerPort]
    by_cases hl : p ∈ l <;> by_cases hq : p = q <;> simp [hl, hq]

/-- Who owns a port after a list of ports is unregistered (R421). -/
theorem State.ownerOf_unregisterPorts (s : State) (l : List Half) (p : Half) :
    (l.foldl (fun t q => t.unregisterPort q) s).ownerOf p = if p ∈ l then none else s.ownerOf p := by
  induction l generalizing s with
  | nil => simp
  | cons q l ih =>
    rw [List.foldl_cons, ih, State.ownerOf_unregisterPort]
    by_cases hl : p ∈ l <;> by_cases hq : p = q <;> simp [hl, hq]

/-- A change of the port map that is made port by port changes nothing else. -/
theorem State.foldl_ports {f : State → Half → State} (hf : ∀ s p, f s p = { s with owner := (f s p).owner }) (s : State)
    (l : List Half) : l.foldl f s = { s with owner := (l.foldl f s).owner } := by
  induction l generalizing s with
  | nil => rfl
  | cons p l ih => rw [List.foldl_cons, ih, hf s p]

/-- A line request does not look at the devices' own states (R531). -/
theorem State.requestIfWanted_setDevices (s : State) (dv : List (DeviceId × DeviceState)) (x : DeviceSpec) :
    ({ s with devices := dv } : State).requestIfWanted x = { s.requestIfWanted x with devices := dv } := by
  have hfree : ({ s with devices := dv } : State).freeLines = s.freeLines := rfl
  unfold State.requestIfWanted State.requestLine
  rw [hfree]
  split
  · cases Assoc.find x.id s.lineOf with
    | some n => rfl
    | none => cases allocLine x.linePrefs s.freeLines <;> rfl
  · rfl

theorem State.resetDeviceState_eq (s : State) (x : DeviceSpec) :
    s.resetDeviceState x = { s with devices := (s.resetDeviceState x).devices } := by
  unfold State.resetDeviceState; split <;> rfl

theorem State.requestIfWanted_owner (s : State) (x : DeviceSpec) : (s.requestIfWanted x).owner = s.owner := by
  unfold State.requestIfWanted
  split
  · exact s.requestLine_owner _ _
  · rfl

/-- The parts of a device's `reset()`: the line request, its own state, the port map (R423, R556). -/
theorem State.deviceReset_eq (s : State) (x : DeviceSpec) :
    s.deviceReset x = { s.requestIfWanted x with
      devices := (s.resetDeviceState x).devices
      owner := (s.deviceReset x).owner } := by
  unfold State.deviceReset
  rw [State.foldl_ports (fun _ _ => rfl), State.foldl_ports (f := fun t p => t.unregisterPort p) (fun _ _ => rfl),
    s.resetDeviceState_eq, s.requestIfWanted_setDevices]

/-- Who owns a port after a device's `reset()`: registration follows unregistration (R421, R423). -/
theorem State.ownerOf_deviceReset (s : State) (x : DeviceSpec) (p : Half) :
    (s.deviceReset x).ownerOf p =
      if p ∈ x.kind.binding.ports then some x.id else if p ∈ x.kind.binding.drops then none else s.ownerOf p := by
  have howner : ((s.resetDeviceState x).requestIfWanted x).ownerOf p = s.ownerOf p := by
    unfold State.ownerOf
    rw [State.requestIfWanted_owner, s.resetDeviceState_eq]
  unfold State.deviceReset
  rw [State.ownerOf_registerPorts, State.ownerOf_unregisterPorts, howner]

/-- A device's `reset()` leaves the other devices' own states (R423). -/
theorem State.find_resetDeviceState_of_ne (s : State) {x : DeviceSpec} {d : DeviceId} (h : d ≠ x.id) :
    Assoc.find d (s.resetDeviceState x).devices = Assoc.find d s.devices := by
  unfold State.resetDeviceState
  split
  · rfl
  · rw [Assoc.find_put, if_neg h]
  · rw [Assoc.find_put, if_neg h]

theorem State.requestIfWanted_lineOf (s : State) (x : DeviceSpec) :
    (s.requestIfWanted x).lineOf =
      if x.kind.binding.wantsLine then (s.requestLine x.id x.linePrefs).1.lineOf else s.lineOf :=
  apply_ite State.lineOf _ _ _

theorem State.requestIfWanted_busLog (s : State) (x : DeviceSpec) :
    (s.requestIfWanted x).busLog =
      if x.kind.binding.wantsLine then (s.requestLine x.id x.linePrefs).1.busLog else s.busLog :=
  apply_ite State.busLog _ _ _

/-- What a device's `reset()` leaves as it was, and what its line request makes of the line table (R423, R531). -/
theorem State.deviceReset_frame (s : State) (x : DeviceSpec) :
    s.deviceReset x = { s with
      owner := (s.deviceReset x).owner
      devices := (s.deviceReset x).devices
      lineOf := if x.kind.binding.wantsLine then (s.requestLine x.id x.linePrefs).1.lineOf else s.lineOf
      busLog := if x.kind.binding.wantsLine then (s.requestLine x.id x.linePrefs).1.busLog else s.busLog } := by
  have hl : (s.deviceReset x).lineOf = (s.requestIfWanted x).lineOf := by rw [s.deviceReset_eq]
  have hb : (s.deviceReset x).busLog = (s.requestIfWanted x).busLog := by rw [s.deviceReset_eq]
  rw [← s.requestIfWanted_lineOf, ← s.requestIfWanted_busLog, ← hl, ← hb]
  exact s.resetFrame_deviceReset x

theorem State.deviceReset_devices (s : State) (x : DeviceSpec) :
    (s.deviceReset x).devices = (s.resetDeviceState x).devices := by
  rw [s.deviceReset_eq]

/-- Settles O22: bulk load, the inputs of a phase in order, and the parts of one device's `reset()`. -/
theorem bulkLoadPlacesItsBytes : Obligations.BulkLoadPlacesItsBytes := by
  refine ⟨fun s addr bs h => ⟨_, s.setBytes_ok h, fun k hk => ?_, fun a ha => ?_⟩,
    fun s addr bs hne h => s.setBytes_error hne h, fun s h => step_of_noInput h,
    fun s p ps h => ⟨fun t => step_of_inputs_ok h, fun r => step_of_inputs_error h⟩,
    fun s i is => ⟨rfl, fun t h => State.inputs_cons_ok h is, fun r h => State.inputs_cons_error h is⟩,
    fun s b a bs => ⟨rfl, rfl, rfl, rfl, rfl⟩, fun s d h => congrArg Except.ok (State.resetOne_of_none h),
    fun s d x h => ?_⟩
  · rw [Memory.read_writeBytes, dif_pos (by omega)]
    congr 1
    omega
  · rw [Memory.read_writeBytes, dif_neg (by omega)]
  · obtain rfl := State.id_of_deviceSpec h
    refine ⟨s.deviceReset x, congrArg Except.ok (State.resetOne_of_some h), s.deviceReset_frame x,
      s.ownerOf_deviceReset x, fun d hd => ?_, ?_⟩
    · rw [s.deviceReset_devices, s.find_resetDeviceState_of_ne hd]
    · rw [s.deviceReset_devices]
      unfold State.resetDeviceState
      cases x.kind with
      | blackBox b => rfl
      | configStub a d b => exact (Assoc.find_put _ _ _ _).trans (if_pos rfl)
      | diskChannel k0 k1 ports =>
        refine (Assoc.find_put _ _ _ _).trans ((if_pos rfl).trans ?_)
        rcases Assoc.find x.id s.devices with _ | _ | _ <;> rfl

end Sys2Proof.Machine

namespace Sys2Proof

/-! ## The encodings of an instruction, as the opcode map gives them -/

/-- `t` ends in the instruction `i` when the bytes left to fetch are `tl`; an Iv immediate has the width that
the operand-size latch selects (R114). -/
inductive Tail.Gives (opsize : Bool) : Tail → Instr → List Byte → Prop
  | done {i : Instr} : Gives opsize (.done i) i []
  | imm8 {f : Byte → Instr} {b : Byte} : Gives opsize (.imm8 f) (f b) [b]
  | imm16 {f : Half → Instr} {v : Half} : Gives opsize (.imm16 f) (f v) (halfBytes v)
  | immV {f : ImmV → Instr} {v : ImmV} (h : v.wellFormed opsize = true) : Gives opsize (.immV f) (f v) v.encode
  | far {f : Half → Half → Instr} {off sel : Half} :
      Gives opsize (.far f) (f off sel) (halfBytes off ++ halfBytes sel)

/-- The opcode map gives the bytes to the instruction: an opcode byte, the bytes of a well-formed operand where the row
has a ModRM byte, and what is left to fetch. -/
inductive Encodes (opsize : Bool) (i : Instr) : List Byte → Prop
  | plain {op : Byte} {t : Tail} {tl : List Byte} (hrow : opcodeRow op = .plain t) (ht : t.Gives opsize i tl) :
      Encodes opsize i (op :: tl)
  | modrm {op : Byte} {f : RegNum → EOperand → Tail} {reg : RegNum} {e : EOperand} {tl : List Byte}
      (hrow : opcodeRow op = .modrm f) (he : e.wellFormed = true) (ht : (f reg e).Gives opsize i tl) :
      Encodes opsize i (op :: (e.encode reg ++ tl))

/-! ### The decoder and the encodings of the map -/

theorem Tail.Gives.decode {opsize : Bool} {t : Tail} {i : Instr} {tl : List Byte} (h : t.Gives opsize i tl) (len : Nat)
    (rest : List Byte) : t.decode opsize len (tl ++ rest) = finish opsize i (len + tl.length) := by
  cases h with
  | done => rfl
  | imm8 => rfl
  | imm16 => simp [Tail.decode, halfBytes]
  | immV hv => exact Tail.decode_immV _ rest hv
  | far => simp [Tail.decode, halfBytes]

/-- What a row decodes to, it gives to the bytes taken. -/
theorem Tail.gives_of_decode {opsize : Bool} {t : Tail} {len n : Nat} {bs : List Byte} {i : Instr}
    (h : t.decode opsize len bs = .done i n) :
    (opsize && i.opsizeClass == .faults) = false ∧ ∃ tl rest, bs = tl ++ rest ∧ n = len + tl.length ∧
      t.Gives opsize i tl := by
  cases t with
  | bad info => cases h
  | badImm8 info => cases bs <;> cases h
  | badImmV info =>
    simp only [Tail.decode] at h
    split at h <;> cases h
  | done j =>
    obtain ⟨rfl, rfl, hc⟩ := finish_len h
    exact ⟨hc, [], bs, rfl, rfl, .done⟩
  | imm8 f =>
    cases bs with
    | nil => cases h
    | cons b bs =>
      obtain ⟨rfl, rfl, hc⟩ := finish_len h
      exact ⟨hc, [b], bs, rfl, rfl, .imm8⟩
  | imm16 f =>
    simp only [Tail.decode] at h
    split at h
    · rename_i b0 b1 bs
      obtain ⟨rfl, rfl, hc⟩ := finish_len h
      exact ⟨hc, _, bs, by rw [halfBytes_half]; rfl, rfl, .imm16⟩
    · cases h
  | immV f =>
    simp only [Tail.decode] at h
    split at h
    · rename_i v hv
      obtain ⟨hw, -, htake⟩ := takeImmV_inv hv
      obtain ⟨rfl, rfl, hc⟩ := finish_len h
      obtain ⟨rest, rfl⟩ := List.prefix_iff_eq_take.2 htake
      exact ⟨hc, v.encode, rest, rfl, rfl, .immV hw⟩
    · cases h
  | far f =>
    simp only [Tail.decode] at h
    split at h
    · rename_i b0 b1 b2 b3 bs
      obtain ⟨rfl, rfl, hc⟩ := finish_len h
      exact ⟨hc, _, bs, by rw [halfBytes_half, halfBytes_half]; rfl, rfl, .far⟩
    · cases h

/-- The bytes that the map gives to an instruction are decoded as it, whatever follows (R101, R123). -/
theorem Encodes.decodeUnit {opsize : Bool} {i : Instr} {bs : List Byte} (h : Encodes opsize i bs) (rest : List Byte) :
    decodeUnit opsize (bs ++ rest) = finish opsize i bs.length := by
  cases h with
  | plain hrow ht =>
    rw [List.cons_append, decodeUnit_plain hrow, ht.decode, List.length_cons, Nat.add_comm]
  | modrm hrow he ht =>
    rw [List.cons_append, List.append_assoc, decodeUnit_modrm hrow _ _ _ _ he, ht.decode, List.length_cons,
      List.length_append, Nat.add_comm 1, Nat.add_right_comm]

/-- What is decoded, the map gives to the bytes taken (R101). -/
theorem encodes_of_decodeUnit {opsize : Bool} {bs : List Byte} {i : Instr} {n : Nat}
    (h : decodeUnit opsize bs = .done i n) :
    (opsize && i.opsizeClass == .faults) = false ∧ ∃ enc rest, bs = enc ++ rest ∧ n = enc.length ∧
      Encodes opsize i enc := by
  cases bs with
  | nil => cases h
  | cons op bs =>
    cases hr : opcodeRow op with
    | none => rw [decodeUnit_none hr] at h; cases h
    | plain t =>
      rw [decodeUnit_plain hr] at h
      obtain ⟨hc, tl, rest, rfl, rfl, ht⟩ := Tail.gives_of_decode h
      exact ⟨hc, op :: tl, rest, rfl, Nat.add_comm _ _, .plain hr ht⟩
    | modrm f =>
      cases bs with
      | nil => simp only [Sys2Proof.decodeUnit, hr] at h; cases h
      | cons m bs =>
        simp only [Sys2Proof.decodeUnit, hr] at h
        split at h
        · cases h
        · rename_i e k ho
          obtain ⟨he, hk, henc⟩ := takeOperand_inv ho
          obtain ⟨hc, tl, rest, hdrop, rfl, ht⟩ := Tail.gives_of_decode h
          refine ⟨hc, _, rest, ?_, ?_, .modrm hr he ht⟩
          · rw [henc, List.cons_append, List.cons_append, List.cons_append, List.append_assoc, ← hdrop,
              List.take_append_drop]
          · rw [henc, List.length_cons, List.length_append, List.length_cons, List.length_take, Nat.min_eq_left hk]
            omega

/-! ### Each well-formed instruction has its own encoding -/

section
variable {opsize : Bool} {i : Instr} {op : Byte}

/-- A row with a ModRM byte and no immediate. -/
theorem Encodes.modrmDone {f : RegNum → EOperand → Tail} {reg : RegNum} {e : EOperand} (h : opcodeRow op = .modrm f)
    (he : e.wellFormed = true) (ht : f reg e = .done i) : Encodes opsize i (op :: e.encode reg) := by
  have := Encodes.modrm (opsize := opsize) h he (ht ▸ Tail.Gives.done)
  rwa [List.append_nil] at this

/-- A row with a ModRM byte and an 8-bit immediate. -/
theorem Encodes.modrmImm8 {f : RegNum → EOperand → Tail} {reg : RegNum} {e : EOperand} {g : Byte → Instr} {b : Byte}
    (h : opcodeRow op = .modrm f) (he : e.wellFormed = true) (ht : f reg e = .imm8 g) :
    Encodes opsize (g b) (op :: (e.encode reg ++ [b])) := .modrm h he (ht ▸ .imm8)

/-- A row with a ModRM byte and an Iv immediate. -/
theorem Encodes.modrmImmV {f : RegNum → EOperand → Tail} {reg : RegNum} {e : EOperand} {g : ImmV → Instr} {v : ImmV}
    (h : opcodeRow op = .modrm f) (ht : f reg e = .immV g) (hw : (e.wellFormed && v.wellFormed opsize) = true) :
    Encodes opsize (g v) (op :: (e.encode reg ++ v.encode)) :=
  have hw := Bool.and_eq_true_iff.1 hw
  .modrm h hw.1 (ht ▸ .immV hw.2)

end

/-- The encoder's bytes are those of the map: the row of each constructor of Instr, by the shape of its operands. -/
theorem encodes_encode {opsize : Bool} {i : Instr} (h : i.operandsWellFormed opsize = true) :
    Encodes opsize i i.encode := by
  cases i with
  | pushEs | pushCs | pushSs | pushDs | popEs | popSs | popDs | prefixEs | prefixCs | prefixSs | prefixDs
  | prefixOpsize | nop | xchgEaxEcx | xchgEaxEdx | xchgEaxEbx | xchgEaxEsp | xchgEaxEbp | xchgEaxEsi | xchgEaxEdi
  | cbw | cwd | pushf | popf | sahf | lahf | ret | retf | int3 | into | iret | xlat | inAlDx | inEaxDx | outDxAl
  | outDxEax | hlt | cmc | clc | stc | cli | sti => exact .plain rfl .done
  | addAlIb | orAlIb | adcAlIb | sbbAlIb | andAlIb | subAlIb | xorAlIb | cmpAlIb | pushIbs | jo | jno | jb | jae
  | je | jne | jbe | ja | js | jns | jp | jnp | jl | jge | jle | jg | testAlIb | intIb | loopne | loope | loop | jcxz
  | inAlIb | inEaxIb | outIbAl | outIbEax | jmpJb => exact .plain rfl .imm8
  | movAlOb | movEaxOv | movObAl | movOvEax | retIw | retfIw | callJv | jmpJv => exact .plain rfl .imm16
  | addEaxIv | orEaxIv | adcEaxIv | sbbEaxIv | andEaxIv | subEaxIv | xorEaxIv | cmpEaxIv | pushIv | testEaxIv =>
    exact .plain rfl (.immV h)
  | callAp | jmpAp => exact .plain rfl .far
  | incR r | decR r | pushR r | popR r => cases r <;> exact .plain rfl .done
  | movR8Ib r => cases r <;> exact .plain rfl .imm8
  | movRIv r => cases r <;> exact .plain rfl (.immV h)
  | addEbGb | addEvGv | addGbEb | addGvEv | orEbGb | orEvGv | orGbEb | orGvEv | adcEbGb | adcEvGv | adcGbEb | adcGvEv
  | sbbEbGb | sbbEvGv | sbbGbEb | sbbGvEv | andEbGb | andEvGv | andGbEb | andGvEv | subEbGb | subEvGv | subGbEb
  | subGvEv | xorEbGb | xorEvGv | xorGbEb | xorGvEv | cmpEbGb | cmpEvGv | cmpGbEb | cmpGvEv | testEbGb | testEvGv
  | xchgEbGb | xchgEvGv | movEbGb | movEvGv | movGbEb | movGvEv | movEsEw | movSsEw | movDsEw | popEv | rolEbOne
  | rorEbOne | rclEbOne | rcrEbOne | shlEbOne | shrEbOne | sarEbOne | rolEvOne | rorEvOne | rclEvOne | rcrEvOne
  | shlEvOne | shrEvOne | sarEvOne | rolEbCl | rorEbCl | rclEbCl | rcrEbCl | shlEbCl | shrEbCl | sarEbCl | rolEvCl
  | rorEvCl | rclEvCl | rcrEvCl | shlEvCl | shrEvCl | sarEvCl | notEb | notEv | negEb | negEv | mulEb | mulEv | imulEb
  | imulEv | divEb | divEv | idivEb | idivEv | incEb | decEb | incEv | decEv | callEv | jmpEv | pushEv =>
    exact .modrmDone rfl h rfl
  | movEwSw e sr => cases sr <;> exact .modrmDone rfl h rfl
  | leaGvM _ m | callMp m | jmpMp m => exact .modrmDone (e := .mem m) rfl h rfl
  | addEbIb | addEvIbs | orEbIb | orEvIbs | adcEbIb | adcEvIbs | sbbEbIb | sbbEvIbs | andEbIb | andEvIbs | subEbIb
  | subEvIbs | xorEbIb | xorEvIbs | cmpEbIb | cmpEvIbs | rolEbIb | rorEbIb | rclEbIb | rcrEbIb | shlEbIb | shrEbIb
  | sarEbIb | rolEvIb | rorEvIb | rclEvIb | rcrEvIb | shlEvIb | shrEvIb | sarEvIb | movEbIb | testEbIb =>
    exact .modrmImm8 rfl h rfl
  | addEvIv | orEvIv | adcEvIv | sbbEvIv | andEvIv | subEvIv | xorEvIv | cmpEvIv | movEvIv | testEvIv =>
    exact .modrmImmV rfl rfl h

theorem Instr.wellFormed_iff {opsize : Bool} {i : Instr} : i.wellFormed opsize = true ↔
    i.operandsWellFormed opsize = true ∧ (opsize && i.opsizeClass == .faults) = false := by
  rw [Instr.wellFormed, Bool.and_eq_true, Bool.not_eq_true']

theorem finish_of_accepted {opsize : Bool} {i : Instr} (h : (opsize && i.opsizeClass == .faults) = false) (len : Nat) :
    finish opsize i len = .done i len := if_neg (by rw [h]; exact Bool.false_ne_true)

/-- Settles O6: the encoder's bytes are in the opcode map, and the decoder reads the map. -/
theorem decodeOfEncodeIsTheInstruction : Obligations.DecodeOfEncodeIsTheInstruction := by
  intro opsize i rest h
  obtain ⟨ho, hc⟩ := Instr.wellFormed_iff.1 h
  rw [(encodes_encode ho).decodeUnit rest, finish_of_accepted hc]

/-! ### Each encoding of the map is the encoder's -/

/-- The encoder's bytes for `i` are `bs`, and the operands of `i` have an encoding. -/
def Instr.HasBytes (opsize : Bool) (i : Instr) (bs : List Byte) : Prop :=
  i.encode = bs ∧ i.operandsWellFormed opsize = true

/-- Every instruction that `t` ends in has the bytes `pre` of opcode and operand, then the bytes left to fetch. -/
def Tail.Sound (opsize : Bool) (pre : List Byte) : Tail → Prop
  | .bad _ => True
  | .badImm8 _ => True
  | .badImmV _ => True
  | .done i => i.HasBytes opsize pre
  | .imm8 f => ∀ b, (f b).HasBytes opsize (pre ++ [b])
  | .imm16 f => ∀ v, (f v).HasBytes opsize (pre ++ halfBytes v)
  | .immV f => ∀ v, v.wellFormed opsize = true → (f v).HasBytes opsize (pre ++ v.encode)
  | .far f => ∀ off sel, (f off sel).HasBytes opsize (pre ++ (halfBytes off ++ halfBytes sel))

/-- Every instruction of the row at opcode byte `op` has the bytes it is read from. -/
def OpcodeRow.Sound (opsize : Bool) (op : Byte) : OpcodeRow → Prop
  | .none => True
  | .plain t => t.Sound opsize [op]
  | .modrm f => ∀ reg e, e.wellFormed = true → (f reg e).Sound opsize (op :: e.encode reg)

theorem Tail.Sound.hasBytes {opsize : Bool} {pre tl : List Byte} {t : Tail} {i : Instr} (hs : t.Sound opsize pre)
    (hg : t.Gives opsize i tl) : i.HasBytes opsize (pre ++ tl) := by
  cases hg with
  | done => rw [List.append_nil]; exact hs
  | imm8 => exact hs _
  | imm16 => exact hs _
  | immV hv => exact hs _ hv
  | far => exact hs _ _

/-- The forms that need a memory operand (R108). -/
theorem memForm_sound {opsize : Bool} {op : Byte} {reg : RegNum} {f : MemOperand → Instr} {e : EOperand}
    (he : e.wellFormed = true)
    (h : ∀ m : MemOperand, m.wellFormed = true → (f m).HasBytes opsize (op :: m.encode reg)) :
    (memForm f e).Sound opsize (op :: e.encode reg) := by
  cases e with
  | reg r => trivial
  | mem m => exact h m he

/-- Every row of the opcode map agrees with the encoder, the rows taken by their shape (R121, R122). -/
theorem opcodeRow_sound (opsize : Bool) : ∀ op : Fin 256, (opcodeRow ⟨op⟩).Sound opsize ⟨op⟩
  | 0x06 | 0x07 | 0x0E | 0x16 | 0x17 | 0x1E | 0x1F | 0x26 | 0x2E | 0x36 | 0x3E | 0x40 | 0x41 | 0x42 | 0x43 | 0x44 |
  0x45 | 0x46 | 0x47 | 0x48 | 0x49 | 0x4A | 0x4B | 0x4C | 0x4D | 0x4E | 0x4F | 0x50 | 0x51 | 0x52 | 0x53 | 0x54 |
  0x55 | 0x56 | 0x57 | 0x58 | 0x59 | 0x5A | 0x5B | 0x5C | 0x5D | 0x5E | 0x5F | 0x66 | 0x90 | 0x91 | 0x92 | 0x93 |
  0x94 | 0x95 | 0x96 | 0x97 | 0x98 | 0x99 | 0x9C | 0x9D | 0x9E | 0x9F | 0xC3 | 0xCB | 0xCC | 0xCE | 0xCF | 0xD7 |
  0xEC | 0xED | 0xEE | 0xEF | 0xF4 | 0xF5 | 0xF8 | 0xF9 | 0xFA | 0xFB =>
    ⟨rfl, rfl⟩
  | 0x04 | 0x0C | 0x14 | 0x1C | 0x24 | 0x2C | 0x34 | 0x3C | 0x6A | 0x70 | 0x71 | 0x72 | 0x73 | 0x74 | 0x75 | 0x76 |
  0x77 | 0x78 | 0x79 | 0x7A | 0x7B | 0x7C | 0x7D | 0x7E | 0x7F | 0xA0 | 0xA1 | 0xA2 | 0xA3 | 0xA8 | 0xB0 | 0xB1 |
  0xB2 | 0xB3 | 0xB4 | 0xB5 | 0xB6 | 0xB7 | 0xC2 | 0xCA | 0xCD | 0xE0 | 0xE1 | 0xE2 | 0xE3 | 0xE4 | 0xE5 | 0xE6 |
  0xE7 | 0xE8 | 0xE9 | 0xEB =>
    fun _ => ⟨rfl, rfl⟩
  | 0x05 | 0x0D | 0x15 | 0x1D | 0x25 | 0x2D | 0x35 | 0x3D | 0x68 | 0xA9 | 0xB8 | 0xB9 | 0xBA | 0xBB | 0xBC | 0xBD |
  0xBE | 0xBF =>
    fun _ hv => ⟨rfl, hv⟩
  | 0x9A | 0xEA => fun _ _ => ⟨rfl, rfl⟩
  | 0x00 | 0x01 | 0x02 | 0x03 | 0x08 | 0x09 | 0x0A | 0x0B | 0x10 | 0x11 | 0x12 | 0x13 | 0x18 | 0x19 | 0x1A | 0x1B |
  0x20 | 0x21 | 0x22 | 0x23 | 0x28 | 0x29 | 0x2A | 0x2B | 0x30 | 0x31 | 0x32 | 0x33 | 0x38 | 0x39 | 0x3A | 0x3B |
  0x84 | 0x85 | 0x86 | 0x87 | 0x88 | 0x89 | 0x8A | 0x8B =>
    fun _ _ he => ⟨rfl, he⟩
  | 0x8D => fun _ _ he => memForm_sound he fun _ hm => ⟨rfl, hm⟩
  | 0x80 | 0x83 => fun reg _ he => by cases reg <;> exact fun _ => ⟨rfl, he⟩
  | 0x81 => fun reg _ he => by cases reg <;> exact fun _ hv => ⟨rfl, Bool.and_eq_true_iff.2 ⟨he, hv⟩⟩
  | 0xC0 | 0xC1 => fun reg e he => by cases reg with
    | r6 => trivial
    | _ => exact fun _ => ⟨rfl, he⟩
  | 0xD0 | 0xD1 | 0xD2 | 0xD3 => fun reg e he => by cases reg with
    | r6 => trivial
    | _ => exact ⟨rfl, he⟩
  | 0x8F => fun reg e he => by cases reg with
    | r0 => exact ⟨rfl, he⟩
    | _ => trivial
  | 0xC6 => fun reg e he => by cases reg with
    | r0 => exact fun _ => ⟨rfl, he⟩
    | _ => trivial
  | 0xC7 => fun reg e he => by cases reg with
    | r0 => exact fun _ hv => ⟨rfl, Bool.and_eq_true_iff.2 ⟨he, hv⟩⟩
    | _ => trivial
  | 0x8C => fun reg e he => by cases reg with
    | r0 | r1 | r2 | r3 => exact ⟨rfl, he⟩
    | _ => trivial
  | 0x8E => fun reg e he => by cases reg with
    | r0 | r2 | r3 => exact ⟨rfl, he⟩
    | _ => trivial
  | 0xF6 => fun reg e he => by cases reg with
    | r0 => exact fun _ => ⟨rfl, he⟩
    | r1 => trivial
    | _ => exact ⟨rfl, he⟩
  | 0xF7 => fun reg e he => by cases reg with
    | r0 => exact fun _ hv => ⟨rfl, Bool.and_eq_true_iff.2 ⟨he, hv⟩⟩
    | r1 => trivial
    | _ => exact ⟨rfl, he⟩
  | 0xFE => fun reg e he => by cases reg with
    | r0 | r1 => exact ⟨rfl, he⟩
    | _ => trivial
  | 0xFF => fun reg e he => by cases reg with
    | r0 | r1 | r2 | r4 | r6 => exact ⟨rfl, he⟩
    | r3 | r5 => exact memForm_sound he fun _ hm => ⟨rfl, hm⟩
    | r7 => trivial
  | 0x0F | 0x27 | 0x2F | 0x37 | 0x3F | 0x60 | 0x61 | 0x62 | 0x63 | 0x64 | 0x65 | 0x67 | 0x69 | 0x6B | 0x6C | 0x6D |
  0x6E | 0x6F | 0x82 | 0x9B | 0xA4 | 0xA5 | 0xA6 | 0xA7 | 0xAA | 0xAB | 0xAC | 0xAD | 0xAE | 0xAF | 0xC4 | 0xC5 |
  0xC8 | 0xC9 | 0xD4 | 0xD5 | 0xD6 | 0xD8 | 0xD9 | 0xDA | 0xDB | 0xDC | 0xDD | 0xDE | 0xDF | 0xF0 | 0xF1 | 0xF2 |
  0xF3 | 0xFC | 0xFD =>
    trivial
  | ⟨n + 256, h⟩ => absurd h (by omega)

/-- The bytes that the map gives to an instruction are the encoder's, and the instruction's operands have an encoding. -/
theorem Encodes.hasBytes {opsize : Bool} {i : Instr} {bs : List Byte} (h : Encodes opsize i bs) :
    i.HasBytes opsize bs := by
  have sound : ∀ op, (opcodeRow op).Sound opsize op := fun op => opcodeRow_sound opsize op.toFin
  cases h with
  | @plain op t tl hrow ht =>
    have hs := sound op
    rw [hrow] at hs
    exact Tail.Sound.hasBytes hs ht
  | @modrm op f reg e tl hrow he ht =>
    have hs := sound op
    rw [hrow] at hs
    exact (hs reg e he).hasBytes ht

/-- Settles O7: the decoder reads the opcode map, and the map's bytes for an instruction are the encoder's. -/
theorem encodeOfDecodeIsTheBytes : Obligations.EncodeOfDecodeIsTheBytes := by
  intro opsize bs i n h
  obtain ⟨hc, enc, rest, rfl, rfl, he⟩ := encodes_of_decodeUnit h
  obtain ⟨hb, ho⟩ := he.hasBytes
  exact ⟨Instr.wellFormed_iff.2 ⟨ho, hc⟩, by simp, by rw [hb, List.take_left]⟩

end Sys2Proof

namespace Sys2Proof.Machine

/-! ## A step at known bytes -/

/-- With no input, no line to take and no halt, a step decodes the window of bytes at CS:ip; the `Pfx` bytes at its head
set their latches (R101, R105, R500). -/
theorem step_of_fetchWindow {s : State} {ps : List Pfx} {bs : List Byte} (hi : s.noInput) (hx : s.executes)
    (hw : s.startDecode.fetchWindow = ps.map Pfx.byte ++ bs) :
    step s = runUnits s.startDecode (ps.map Pfx.byte ++ bs) (bs.length + 1) bs (s.startDecode.latchAll ps) := by
  rw [step_of_noInput hi, cycle_of_executes hx, executeOne, hw, List.length_append, List.length_map,
    show ps.length + bs.length + 1 = bs.length + 1 + ps.length by omega, runUnits_pfxs]

theorem State.latchAll_startDecode_opsizePfx (s : State) (ps : List Pfx) :
    (s.startDecode.latchAll ps).opsizePfx = pfxOpsize ps := by
  rw [State.latchAll_eq]
  exact Bool.false_or _

/-- Settles O10: the bytes at CS:ip head the window, and bytes after the instruction do not change its decoding. -/
theorem stepRunsTheDecodedInstruction : Obligations.StepRunsTheDecodedInstruction := by
  intro s ps body i hi hx hcode hlen hdec hpfx
  obtain ⟨more, hw⟩ := State.fetchWindow_of_CodeAt hcode (by simpa using hlen)
  rw [List.append_assoc] at hw
  have hdone : decodeUnit (s.startDecode.latchAll ps).opsizePfx (body ++ more) = .done i body.length := by
    rw [s.latchAll_startDecode_opsizePfx, decodeUnit_append (by rw [hdec]; exact nofun), hdec]
  rw [step_of_fetchWindow hi hx hw, runUnits_done hdone hpfx, State.latchAll_fetched]

end Sys2Proof.Machine

namespace Sys2Proof

/-! ## The encodings that are no instruction (R131) -/

/-- Why `t` is no instruction, and how many bytes at most are fetched before the DecodeFault. -/
def Tail.refusal : Tail → Option (DecodeInfo × Nat)
  | .bad info => some (info, 0)
  | .badImm8 info => some (info, 1)
  | .badImmV info => some (info, 4)
  | _ => none

/-- Why a row is no instruction at the operand and ModRM.reg value given; only asked of rows with a ModRM byte. -/
def OpcodeRow.refusal (reg : RegNum) (e : EOperand) : OpcodeRow → Option (DecodeInfo × Nat)
  | .modrm f => (f reg e).refusal
  | _ => Option.none

theorem Tail.decode_of_refusal {t : Tail} {info : DecodeInfo} {k : Nat} (h : t.refusal = some (info, k)) (opsize : Bool)
    (len : Nat) {bs : List Byte} (hk : k ≤ bs.length) : ∃ n ≤ k, t.decode opsize len bs = .fault info (len + n) := by
  cases t with
  | bad => cases h; exact ⟨0, le_rfl, rfl⟩
  | badImm8 =>
    cases h
    match bs, hk with
    | _ :: _, _ => exact ⟨1, le_rfl, rfl⟩
  | badImmV =>
    cases h
    match bs, hk with
    | _ :: _ :: _ :: _ :: _, _ =>
      cases opsize with
      | false => exact ⟨2, by decide, rfl⟩
      | true => exact ⟨4, le_rfl, rfl⟩
  | _ => cases h

theorem decodeUnit_of_refusal {op : Byte} {reg : RegNum} {e : EOperand} {info : DecodeInfo} {k : Nat}
    (h : (opcodeRow op).refusal reg e = some (info, k)) (opsize : Bool) (he : e.wellFormed = true) {rest : List Byte}
    (hk : k ≤ rest.length) :
    ∃ n ≤ k, decodeUnit opsize (op :: (e.encode reg ++ rest)) = .fault info (1 + (e.encode reg).length + n) := by
  cases hr : opcodeRow op with
  | modrm f =>
    rw [hr] at h
    rw [decodeUnit_modrm hr opsize reg e rest he]
    exact Tail.decode_of_refusal h opsize _ hk
  | _ => rw [hr] at h; cases h

theorem decodeUnit_of_refusal_at_once {op : Byte} {reg : RegNum} {e : EOperand} {info : DecodeInfo}
    (h : (opcodeRow op).refusal reg e = some (info, 0)) (opsize : Bool) (he : e.wellFormed = true) (rest : List Byte) :
    decodeUnit opsize (op :: (e.encode reg ++ rest)) = .fault info (1 + (e.encode reg).length) := by
  obtain ⟨n, hn, hd⟩ := decodeUnit_of_refusal h opsize he rest.length.zero_le
  rwa [Nat.le_zero.1 hn] at hd

theorem opcodeRow_of_unassigned : ∀ op ∈ Claims.unassigned, opcodeRow op = .none := by
  intro op hop
  fin_cases hop <;> rfl

/-- Each group member marked none is a refusing row, whatever its operand (R121, R131). -/
theorem refusal_of_noMember (e : EOperand) : ∀ x ∈ Claims.noMember, ∀ op ∈ x.1, ∀ reg ∈ x.2,
    ∃ k ≤ 4, (opcodeRow op).refusal reg e = some (.group, k) := of_decide_eq_true rfl

theorem refusal_of_memoryOnly (rm : RegNum) : ∀ x ∈ Claims.memoryOnly, ∀ op ∈ x.1, ∀ reg ∈ x.2,
    (opcodeRow op).refusal reg (.reg rm) = some (.form, 0) := of_decide_eq_true rfl

theorem refusal_of_noSegment (e : EOperand) : ∀ x ∈ Claims.noSegment, ∀ op ∈ x.1, ∀ reg ∈ x.2,
    (opcodeRow op).refusal reg e = some (.form, 0) := of_decide_eq_true rfl

theorem opsizeClass_of_faultClass {i : Instr} (h : Claims.FaultClass i) : i.opsizeClass = .faults := by
  cases h <;> rfl

end Sys2Proof

namespace Sys2Proof.Machine

/-- A decode that wants more bytes than the window has goes on past it (R101). -/
theorem runUnits_short {start s : State} {window bs : List Byte} {fuel : Nat}
    (h : decodeUnit s.opsizePfx bs = .short) : runUnits start window (fuel + 1) bs s = start.pastWindow window := by
  unfold runUnits
  rw [h]

/-- The window of a decode is `MAX_INSN_LEN` bytes when so many are backed (R101). -/
theorem State.fetchWindow_eq_of_CodeAt {s : State} {bs : List Byte} (h : s.CodeAt bs)
    (hn : bs.length = s.params.maxInsnLen) : s.startDecode.fetchWindow = bs := by
  obtain ⟨more, hw⟩ := State.fetchWindow_of_CodeAt h hn.le
  have hle : s.startDecode.fetchWindow.length ≤ s.params.maxInsnLen := s.startDecode.fetchBytes_length_le _ _
  rw [hw, List.length_append] at hle
  rw [hw, List.length_eq_zero_iff.1 (show more.length = 0 by omega), List.append_nil]

/-- The first bytes at CS:ip. -/
theorem State.CodeAt.of_append {s : State} {bs cs : List Byte} (h : s.CodeAt (bs ++ cs)) : s.CodeAt bs := by
  intro k hk
  have := h k (by rw [List.length_append]; omega)
  rwa [List.getElem_append_left hk] at this

/-- A decode that goes on past `MAX_INSN_LEN` backed bytes is too long (R101, R131). -/
theorem State.pastWindow_of_CodeAt {s : State} {window : List Byte} {b : Byte} (h : s.CodeAt (window ++ [b])) :
    s.startDecode.pastWindow window = s.startDecode.decodeFault (window ++ [b]) .tooLong := by
  obtain ⟨hb, hr⟩ := h window.length (by simp)
  rw [List.getElem_append_right le_rfl] at hr
  have hbacked : s.startDecode.backed (linear (s.sreg .cs) (s.ip + BitVec.ofNat 16 window.length)) = true :=
    decide_eq_true hb
  have hbyte : s.mem.read (s.byteAddr s.sregs.cs s.ip window.length) = b := by simpa using hr
  exact (if_pos hbacked).trans (by rw [← hbyte]; rfl)

/-- The bytes of an instruction that goes on past `MAX_INSN_LEN` bytes end in a DecodeFault (R131). -/
theorem step_tooLong {s : State} {ps : List Pfx} {body bs : List Byte} (hi : s.noInput) (hx : s.executes)
    (hlen : bs.length = s.params.maxInsnLen + 1) (hcode : s.CodeAt bs)
    (hbs : bs.take s.params.maxInsnLen = ps.map Pfx.byte ++ body)
    (hdec : decodeUnit (pfxOpsize ps) body = .short) : step s = s.startDecode.decodeFault bs .tooLong := by
  obtain ⟨b, rfl⟩ : ∃ b, bs = ps.map Pfx.byte ++ body ++ [b] := by
    refine ⟨bs[s.params.maxInsnLen], ?_⟩
    rw [← hbs, List.take_append_getElem, List.take_of_length_le hlen.le]
  have hw : s.startDecode.fetchWindow = ps.map Pfx.byte ++ body :=
    State.fetchWindow_eq_of_CodeAt hcode.of_append (by rw [← hbs, List.length_take]; omega)
  rw [step_of_fetchWindow hi hx hw, runUnits_short (by rw [s.latchAll_startDecode_opsizePfx, hdec]),
    State.pastWindow_of_CodeAt hcode]

/-- Settles O9: the rows that refuse, the rows of class `fault`, and the decode that goes on past its window. -/
theorem reservedEncodingsRaiseDecodeFault : Obligations.ReservedEncodingsRaiseDecodeFault := by
  refine ⟨fun op hop opsize rest => decodeUnit_none (opcodeRow_of_unassigned op hop) opsize rest,
    fun x hx op hop reg hreg opsize e rest he hlen => ?_,
    fun x hx op hop reg hreg opsize rm rest =>
      decodeUnit_of_refusal_at_once (refusal_of_memoryOnly rm x hx op hop reg hreg) opsize rfl rest,
    fun x hx op hop reg hreg opsize e rest he =>
      decodeUnit_of_refusal_at_once (refusal_of_noSegment e x hx op hop reg hreg) opsize he rest,
    fun i rest hi ho => ?_, fun s ps body bs hi hx hlen hcode hbs hdec => step_tooLong hi hx hlen hcode hbs hdec⟩
  · obtain ⟨k, hk, href⟩ := refusal_of_noMember e x hx op hop reg hreg
    obtain ⟨n, -, h⟩ := decodeUnit_of_refusal href opsize he (hk.trans hlen)
    exact ⟨_, h⟩
  · rw [(encodes_encode ho).decodeUnit rest, finish, opsizeClass_of_faultClass hi]
    rfl

/-! ## The effective address (R110, R111) -/

/-- A base expression as the sum of its registers, modulo 2^16. -/
theorem State.baseValue_eq_sum (s : State) (b : Base) : s.baseValue b =
    BitVec.ofInt 16 ((Claims.eaRegs.baseRegs b).map fun r => ((s.regs.view .w16 r).toNat : Int)).sum := by
  cases b <;> simp [State.baseValue, State.readReg_eq_view, Claims.eaRegs.baseRegs, BitVec.ofInt_add]

theorem State.eaOff_eq_sum (s : State) (m : MemOperand) : s.eaOff m = BitVec.ofInt 16
    (((Claims.eaRegs m).map fun r => ((s.regs.view .w16 r).toNat : Int)).sum + Claims.eaDisp m) := by
  rw [BitVec.ofInt_add]
  cases m with
  | direct d => simp [State.eaOff, Claims.eaRegs, Claims.eaDisp]
  | base b => simp [State.eaOff, Claims.eaRegs, Claims.eaDisp, s.baseValue_eq_sum]
  | disp8 b d => exact congrArg (· + BitVec.ofInt 16 d.toInt) (s.baseValue_eq_sum b)
  | disp16 b d => simp [State.eaOff, Claims.eaRegs, Claims.eaDisp, s.baseValue_eq_sum]

/-- SS is the default segment where BP is in the base (R110). -/
theorem memSeg_eq (m : MemOperand) : memSeg m = if .r5 ∈ Claims.eaRegs m then .ss else .ds := by
  cases m with
  | direct d => rfl
  | base b | disp8 b d | disp16 b d => cases b <;> rfl

/-- Settles O19: the offset is a sum of numbers; the override latch comes before the default segment. -/
theorem effectiveAddressOfAMemoryOperand : Obligations.EffectiveAddressOfAMemoryOperand := by
  refine fun s m => ⟨s.eaOff_eq_sum m, ?_⟩
  unfold State.eaSeg State.dataSeg State.sreg
  cases s.segPfx with
  | some i => cases i <;> rfl
  | none =>
    rw [memSeg_eq]
    exact apply_ite s.sregs.get _ _ _

/-! ## CMP and the conditional jumps (R120, R217) -/

theorem immBits_eq_immValue (w : Width) (iv : ImmV) : Claims.immBits w iv = immValue w iv := by
  cases iv <;> exact BitVec.ofNat_toNat _ _

section
variable {s : State} {op : AluOp} {w : Width} {e : EOperand} {g : RegNum} {b : BitVec w.bits}

theorem aluEG_eq (h : (Claims.Source.operand (.reg g)).Has s b) :
    aluEG op w e g s = ofEff ((aluOnE op w e b s).after ((Claims.Source.operand (w := w) (.reg g)).records s)) := by
  obtain ⟨-, hg⟩ := h
  unfold aluEG
  rw [s.readReg_eq_view, show s.regs.view w g = b from hg]
  exact congrArg ofEff (Eff.after_nil _).symm

theorem aluGE_eq (h : (Claims.Source.operand e).Has s b) :
    aluGE op w g e s = ofEff ((aluOnE op w (.reg g) b s).after ((Claims.Source.operand (w := w) e).records s)) := by
  unfold aluGE
  rw [State.readE_ok h.1 h.2, Eff.ok_bind]
  rfl

theorem aluEI_eq {v : BitVec w.bits} (h : (Claims.Source.value v).Has s b) :
    aluEI op w e v s = ofEff ((aluOnE op w e b s).after ((Claims.Source.value v).records s)) := by
  obtain rfl : b = v := h
  exact congrArg ofEff (Eff.after_nil _).symm

end

/-- Every form of a two-operand instruction reads its source and does its operation on the destination (R205). -/
theorem exec_twoOperand {s : State} {i : Instr} {op : AluOp} {w : Width} {dst : EOperand} {src : Claims.Source w}
    {b : BitVec w.bits} (h : Claims.TwoOperand s i op w dst src) (hb : src.Has s b) :
    exec i s = ofEff ((aluOnE op w dst b s).after (src.records s)) := by
  cases h with
  | addEbGb | addEvGv | orEbGb | orEvGv | adcEbGb | adcEvGv | sbbEbGb | sbbEvGv | andEbGb | andEvGv | subEbGb
  | subEvGv | xorEbGb | xorEvGv | cmpEbGb | cmpEvGv => exact aluEG_eq hb
  | addGbEb | addGvEv | orGbEb | orGvEv | adcGbEb | adcGvEv | sbbGbEb | sbbGvEv | andGbEb | andGvEv | subGbEb
  | subGvEv | xorGbEb | xorGvEv | cmpGbEb | cmpGvEv => exact aluGE_eq hb
  | addAlIb | addEbIb | addEvIbs | orAlIb | orEbIb | orEvIbs | adcAlIb | adcEbIb | adcEvIbs | sbbAlIb | sbbEbIb
  | sbbEvIbs | andAlIb | andEbIb | andEvIbs | subAlIb | subEbIb | subEvIbs | xorAlIb | xorEbIb | xorEvIbs | cmpAlIb
  | cmpEbIb | cmpEvIbs => exact Eq.trans (by rfl) (aluEI_eq hb)
  | addEaxIv | addEvIv | orEaxIv | orEvIv | adcEaxIv | adcEvIv | sbbEaxIv | sbbEvIv | andEaxIv | andEvIv | subEaxIv
  | subEvIv | xorEaxIv | xorEvIv | cmpEaxIv | cmpEvIv =>
    rw [immBits_eq_immValue] at hb ⊢
    exact Eq.trans (by rfl) (aluEI_eq hb)

theorem jumpIf_eq (taken : Bool) (rel : Byte) (s : State) :
    jumpIf taken rel s = { s with ip := if taken then Claims.target s rel else s.ip } := by
  cases taken with
  | false => rfl
  | true => exact congrArg s.setIp (s.relTarget8_eq rel)

/-- Each conditional jump is one of the sixteen conditions (R120). -/
theorem exec_conditional_cond {s : State} {i : Instr} {p : Prop} {rel : Byte} (h : Claims.Conditional s i p rel) :
    ∃ c : Cond, exec i s = .next (jumpIf (c.holds s.flags) rel s) ∧ (c.holds s.flags = true ↔ p) := by
  cases h with
  | jo => exact ⟨.o, rfl, .rfl⟩
  | jno => exact ⟨.no, rfl, by simp [Cond.holds]⟩
  | jb => exact ⟨.b, rfl, .rfl⟩
  | jae => exact ⟨.ae, rfl, by simp [Cond.holds]⟩
  | je => exact ⟨.e, rfl, .rfl⟩
  | jne => exact ⟨.ne, rfl, by simp [Cond.holds]⟩
  | jbe => exact ⟨.be, rfl, by simp [Cond.holds]⟩
  | ja => exact ⟨.a, rfl, by simp [Cond.holds]⟩
  | js => exact ⟨.s, rfl, .rfl⟩
  | jns => exact ⟨.ns, rfl, by simp [Cond.holds]⟩
  | jp => exact ⟨.p, rfl, .rfl⟩
  | jnp => exact ⟨.np, rfl, by simp [Cond.holds]⟩
  | jl => exact ⟨.l, rfl, by simp [Cond.holds]⟩
  | jge => exact ⟨.ge, rfl, by simp [Cond.holds]⟩
  | jle => exact ⟨.le, rfl, by simp [Cond.holds]⟩
  | jg => exact ⟨.g, rfl, by simp [Cond.holds]⟩

/-- A conditional jump goes to its target when its condition holds, else on (R120, R381). -/
theorem exec_conditional {s : State} {i : Instr} {p q : Prop} [Decidable q] {rel : Byte}
    (h : Claims.Conditional s i p rel) (hq : p ↔ q) :
    exec i s = .next { s with ip := if q then Claims.target s rel else s.ip } := by
  obtain ⟨c, hexec, hc⟩ := exec_conditional_cond h
  rw [hexec, jumpIf_eq]
  simp only [hc.trans hq]

/-! ### The flags of a difference order its operands (R202) -/

section
variable {n : Nat} (a b : BitVec n) (f : Flags)

theorem subFlags_fst : (subFlags a b false f).1 = a - b := by
  simp [subFlags, Int.sub_eq_add_neg, BitVec.ofInt_add, BitVec.ofInt_neg, BitVec.sub_eq_add_neg]

theorem subFlags_cf_iff : (subFlags a b false f).2.cf = true ↔ a.toNat < b.toNat := by
  simp [subFlags, setSZP]

theorem subFlags_zf_iff : (subFlags a b false f).2.zf = true ↔ a = b := by
  rw [show (subFlags a b false f).2.zf = ((subFlags a b false f).1 == 0) from rfl, subFlags_fst, beq_iff_eq,
    sub_eq_zero]

theorem subFlags_sf : (subFlags a b false f).2.sf = (a - b).msb := by
  rw [← subFlags_fst a b f]
  rfl

/-- OF says that the signed difference left its range. -/
theorem subFlags_ofl : (subFlags a b false f).2.ofl = a.ssubOverflow b := by
  rw [BitVec.ssubOverflow_eq, ← subFlags_fst a b f,
    show (subFlags a b false f).2.ofl = (a.msb != b.msb && (subFlags a b false f).1.msb != a.msb) from rfl]
  generalize (subFlags a b false f).1.msb = r
  cases a.msb <;> cases b.msb <;> cases r <;> rfl

/-- The sign of the difference is right when it did not overflow, and wrong when it did. -/
theorem subFlags_sf_ne_ofl_iff :
    (subFlags a b false f).2.sf ≠ (subFlags a b false f).2.ofl ↔ a.toInt < b.toInt := by
  rw [subFlags_sf, subFlags_ofl]
  cases h : a.ssubOverflow b with
  | false =>
    have := BitVec.toInt_sub_of_not_ssubOverflow (x := a) (y := b) (by simp [h])
    rw [ne_eq, Bool.not_eq_false, BitVec.msb_eq_toInt, this, decide_eq_true_iff]
    omega
  | true =>
    rw [BitVec.ssubOverflow_eq] at h
    simp only [Bool.or_eq_true, Bool.and_eq_true, Bool.not_eq_true', BitVec.msb_eq_toInt (x := a),
      BitVec.msb_eq_toInt (x := b), decide_eq_true_iff, decide_eq_false_iff_not] at h
    rcases h with ⟨⟨ha, hb⟩, hr⟩ | ⟨⟨ha, hb⟩, hr⟩ <;> rw [hr]
    · exact iff_of_false (fun h => h rfl) (by omega)
    · exact iff_of_true Bool.false_ne_true (by omega)

end

/-- Settles O37: CMP leaves the flags of the difference, and they order the operands. -/
theorem conditionsAfterCmpOrderTheOperands : Obligations.ConditionsAfterCmpOrderTheOperands := by
  intro s t i w dst src a b h hbacked ha hb hexec rel
  have hf : t.flags = (subFlags a b false s.flags).2 := by
    rw [exec_twoOperand h hb, aluOnE_cmp b hbacked ha] at hexec
    cases hexec
    rfl
  have hz : t.flags.zf = true ↔ a = b := hf ▸ subFlags_zf_iff a b s.flags
  have hc : t.flags.cf = true ↔ a.toNat < b.toNat := hf ▸ subFlags_cf_iff a b s.flags
  have hs : t.flags.sf ≠ t.flags.ofl ↔ a.toInt < b.toInt := hf ▸ subFlags_sf_ne_ofl_iff a b s.flags
  refine ⟨exec_conditional (.je rel) hz, exec_conditional (.jb rel) hc, exec_conditional (.jbe rel) ?_,
    exec_conditional (.jl rel) hs, exec_conditional (.jle rel) ?_⟩
  · rw [hc, hz, Nat.le_iff_lt_or_eq, BitVec.toNat_inj]
  · rw [hs, hz, Int.le_iff_lt_or_eq, BitVec.toInt_inj, or_comm]

end Sys2Proof.Machine

namespace Sys2Proof.Machine

/-! ## Data movement (R150 to R167) -/

/-- An instruction that ends in a register write changes that view of the registers and nothing else (R21 to R23). -/
theorem exec_eq_next_writeReg {s : State} {i : Instr} {w : Width} {r : RegNum} {v : BitVec w.bits}
    (h : exec i s = .next (s.writeReg w r v)) :
    ∃ g, exec i s = .next { s with regs := g } ∧ s.regs.Wrote w r v g :=
  ⟨_, h, s.regs.write_wrote w r v⟩

/-! ### MOV (R150 to R157) -/

/-- Loading a register with a value that was read keeps the records of the read. -/
theorem loadReg_ok (s : State) (w : Width) (r : RegNum) (v : BitVec w.bits) (l : List TraceRecord) :
    loadReg w r (.ok v l) s = .ok (s.writeReg w r v) l := by
  simp [loadReg]

/-- A register loaded from an operand is a register operand written with its value. -/
theorem loadReg_readE {s : State} {w : Width} {e : EOperand} {v : BitVec w.bits} (r : RegNum)
    (hv : (Claims.Source.operand e).Has s v) :
    loadReg w r (s.readE w e) s =
      (s.writeE w (.reg r) v).after ((Claims.Source.operand (w := w) e).records s) := by
  obtain ⟨hb, hr⟩ := hv
  rw [State.readE_ok hb hr]
  rfl

/-- Every form of MOV to a register or memory reads its source and writes its destination (R150 to R156). -/
theorem exec_moves {s : State} {i : Instr} {w : Width} {dst : EOperand} {src : Claims.Source w} {v : BitVec w.bits}
    (h : Claims.Moves s i w dst src) (hv : src.Has s v) :
    exec i s = ofEff ((s.writeE w dst v).after (src.records s)) := by
  cases h with
  | movEbGb | movEvGv | movObAl | movOvEax =>
    obtain ⟨-, hreg⟩ := hv
    obtain rfl := (s.readReg_eq_view _ _).trans hreg
    exact congrArg ofEff (Eff.after_nil _).symm
  | movGbEb | movGvEv | movAlOb | movEaxOv => exact congrArg ofEff (loadReg_readE _ hv)
  | movEwSw | movEbIb =>
    obtain rfl := hv
    exact congrArg ofEff (Eff.after_nil _).symm
  | movEvIv =>
    obtain rfl := Eq.trans hv (immBits_eq_immValue _ _)
    exact congrArg ofEff (Eff.after_nil _).symm
  | movR8Ib =>
    obtain rfl := hv
    exact congrArg _ (State.emit_nil _).symm
  | movRIv =>
    obtain rfl := Eq.trans hv (immBits_eq_immValue _ _)
    exact congrArg _ (State.emit_nil _).symm

/-- A segment register gets the value of the operand it is loaded from (R157). -/
theorem loadSreg_ok {s : State} {e : EOperand} {v : Half} (i : SReg) (hb : s.operandBacked .w16 e = true)
    (hv : s.Reads .w16 e v) :
    ofEff (loadSreg i (s.readE .w16 e) s) = .next { s with
      sregs := s.sregs.set i v
      trace := s.trace ++ s.operandRecords .read .w16 e } := by
  rw [State.readE_ok hb hv]
  simp [loadSreg, State.setSreg, State.emit]

/-- Settles O29: every form but the loads of a segment register writes its destination with the source's value. -/
theorem movPutsTheSourceInTheDestination : Obligations.MovPutsTheSourceInTheDestination := by
  refine ⟨fun s i w dst src v h hb hv => ?_,
    fun s e v hb hv => ⟨loadSreg_ok .es hb hv, loadSreg_ok .ss hb hv, loadSreg_ok .ds hb hv⟩⟩
  obtain ⟨g, m, hwrite, hputs⟩ := s.writeE_ok w dst v hb
  refine ⟨g, m, ?_, hputs⟩
  rw [exec_moves h hv, hwrite]
  rfl

/-! ### XCHG (R160, R161) -/

/-- Both operands are read, then the E operand gets the register's value and the register the E operand's (R160). -/
theorem xchgEG_ok {s : State} {w : Width} {e : EOperand} {a : BitVec w.bits} (r : RegNum)
    (hb : s.operandBacked w e = true) (ha : s.Reads w e a) :
    ∃ g m g', s.Puts w e (s.regs.view w r) g m ∧ g.Wrote w r a g' ∧
      ofEff (xchgEG w e r s) = .next { s with
        regs := g'
        mem := m
        trace := s.trace ++ (s.operandRecords .read w e ++ s.operandRecords .write w e) } := by
  obtain ⟨g, m, hwrite, hputs⟩ := s.writeE_ok w e (s.regs.view w r) hb
  refine ⟨g, m, _, hputs, g.write_wrote w r a, ?_⟩
  rw [xchgEG, State.readE_ok hb ha, s.readReg_eq_view]
  simp [hwrite, State.writeReg, State.emit]

/-- The accumulator gets the register's value, then the register the accumulator's (R161). -/
theorem xchgAcc_wrote (r : RegNum) (s : State) :
    ∃ g g', s.regs.Wrote s.vWidth .r0 (s.regs.view s.vWidth r) g ∧
      g.Wrote s.vWidth r (s.regs.view s.vWidth .r0) g' ∧ xchgAcc r s = { s with regs := g' } := by
  refine ⟨_, _, s.regs.write_wrote _ _ _, Regs.write_wrote _ _ _ _, ?_⟩
  simp only [xchgAcc, s.readReg_eq_view]
  rfl

/-- Settles O30: the forms with an E operand by `xchgEG_ok`, the seven short forms by `xchgAcc_wrote`. -/
theorem xchgSwapsItsOperands : Obligations.XchgSwapsItsOperands := by
  refine ⟨fun s e r w a i h hb ha => ?_, fun s r i h => ?_⟩
  · obtain ⟨rfl, rfl⟩ | ⟨rfl, rfl⟩ := h
    · exact xchgEG_ok r hb ha
    · exact xchgEG_ok r hb ha
  · have hexec : exec i s = .next (xchgAcc r s) := by
      simp only [List.mem_cons, Prod.mk.injEq, List.not_mem_nil, or_false] at h
      obtain ⟨rfl, rfl⟩ | ⟨rfl, rfl⟩ | ⟨rfl, rfl⟩ | ⟨rfl, rfl⟩ | ⟨rfl, rfl⟩ | ⟨rfl, rfl⟩ | ⟨rfl, rfl⟩ := h <;> rfl
    obtain ⟨g, g', hacc, hreg, hswap⟩ := xchgAcc_wrote r s
    exact ⟨g, g', hacc, hreg, hexec.trans (congrArg _ hswap)⟩

/-! ### LEA and XLAT (R162, R163) -/

/-- The table offset of XLAT is the sum of BX and AL as numbers, modulo 2^16 (R163). -/
theorem State.xlatOffset_eq (s : State) :
    s.xlatOffset = BitVec.ofNat 16 ((s.regs.view .w16 .r3).toNat + (s.regs.view .w8 .r0).toNat) := by
  rw [BitVec.ofNat_add, BitVec.ofNat_toNat, BitVec.ofNat_toNat, State.xlatOffset, s.readReg_eq_view,
    s.readReg_eq_view]
  exact congrArg (· + _) (BitVec.setWidth_eq _).symm

/-- Settles O31: LEA is a register write; XLAT loads AL with the byte that memory holds at its table offset. -/
theorem leaAndXlat : Obligations.LeaAndXlat := by
  refine ⟨fun s r m => ?_, fun s v off hoff hb hv => ⟨_, ?_, s.regs.write_wrote .w8 .r0 v⟩⟩
  · rw [BitVec.ofNat_toNat]
    exact exec_eq_next_writeReg rfl
  · obtain rfl := s.xlatOffset_eq.trans hoff.symm
    exact congrArg ofEff ((congrArg (loadReg .w8 .r0 · s) (State.readSeg_ok hb hv)).trans (loadReg_ok ..))

/-! ### The accumulator's sign and the flag byte (R164 to R167) -/

/-- CBW sign-extends AL to AX (R164). -/
theorem signExtendAcc_w16 {s : State} (h : s.opsizePfx = false) :
    signExtendAcc s = s.writeReg .w16 .r0 (BitVec.ofInt 16 (s.regs.view .w8 .r0).toInt) := by
  rw [signExtendAcc, h, s.readReg_eq_view .w8]
  rfl

/-- CWDE sign-extends AX to EAX (R164). -/
theorem signExtendAcc_w32 {s : State} (h : s.opsizePfx = true) :
    signExtendAcc s = s.writeReg .w32 .r0 (BitVec.ofInt 32 (s.regs.view .w16 .r0).toInt) := by
  rw [signExtendAcc, h, s.readReg_eq_view .w16]
  rfl

/-- CWD and CDQ fill the high register from the sign of the accumulator at the operand width (R165). -/
theorem signFillHigh_eq {s : State} {w : Width} (hw : s.vWidth = w) :
    signFillHigh s =
      s.writeReg w .r2 (if (s.regs.view w .r0).toInt < 0 then BitVec.allOnes w.bits else 0) := by
  subst hw
  simp only [signFillHigh, s.readReg_eq_view, BitVec.msb_eq_toInt, decide_eq_true_eq]

theorem State.vWidth_eq {s : State} {b : Bool} (h : s.opsizePfx = b) : s.vWidth = if b then .w32 else .w16 := by
  rw [State.vWidth, h]

/-- The low byte of the flag image (R30, R166). -/
theorem flagsImage_low (f : Flags) : (flagsImage f).extractLsb' 0 8 =
    BitVec.ofBoolListLE [f.cf, true, f.pf, false, f.af, false, f.zf, f.sf] := by
  refine BitVec.eq_of_getLsbD_eq fun k hk => ?_
  rw [BitVec.getLsbD_extractLsb', flagsImage_getLsbD, BitVec.getLsbD_ofBoolListLE]
  interval_cases k <;> rfl

/-- Settles O32: CBW, CWD and LAHF are register writes, SAHF a write of five flags. -/
theorem accumulatorAndFlagByteMoves : Obligations.AccumulatorAndFlagByteMoves := by
  refine ⟨fun s h => exec_eq_next_writeReg (congrArg _ (signExtendAcc_w16 h)),
    fun s h => exec_eq_next_writeReg (congrArg _ (signExtendAcc_w32 h)),
    fun s h => exec_eq_next_writeReg (congrArg _ (signFillHigh_eq (State.vWidth_eq h))),
    fun s h => exec_eq_next_writeReg (congrArg _ (signFillHigh_eq (State.vWidth_eq h))),
    fun s => exec_eq_next_writeReg (by rw [← flagsImage_low]; rfl),
    fun s v hv => ?_⟩
  obtain rfl := (s.readReg_eq_view .w8 .r4).trans hv
  rfl

end Sys2Proof.Machine

namespace Sys2Proof

theorem Width.eight_le_bits (w : Width) : 8 ≤ w.bits := by cases w <;> decide

end Sys2Proof

namespace Sys2Proof.Machine

/-! ## Arithmetic and logic (R200 to R233) -/

/-! ### The flags as the rules write them (R200 to R204) -/

section
variable {n : Nat} (a b r : BitVec n) (c : Bool) (f : Flags)

theorem setSZP_eq_resultFlags : setSZP r f = Claims.resultFlags r f := by
  unfold setSZP
  rw [parity8_xor]
  rfl

theorem addFlags_eq_sumFlags : addFlags a b c f =
    (BitVec.ofNat n (a.toNat + b.toNat + c.toNat), Claims.sumFlags a b c.toNat f) := by
  unfold addFlags
  dsimp only
  rw [setSZP_eq_resultFlags]
  rfl

theorem subFlags_eq_differenceFlags : subFlags a b c f =
    (BitVec.ofInt n (a.toNat - b.toNat - c.toNat), Claims.differenceFlags a b c.toNat f) := by
  unfold subFlags
  dsimp only
  rw [setSZP_eq_resultFlags]
  rfl

theorem logicFlags_eq_bitwiseFlags : logicFlags r f = Claims.bitwiseFlags r f := setSZP_eq_resultFlags r _

theorem addFlags_fst : (addFlags a b false f).1 = a + b := by
  simp [addFlags, BitVec.ofNat_add]

end

/-! ### What CF, OF and AF report (R201, R202, R206) -/

section
variable {n : Nat} (a b : BitVec n) (c : Bool) (f : Flags)

/-- The word of a signed number that leaves the word's range by less than the range's length is off by that length. -/
theorem toInt_ofInt_cases (hn : 0 < n) {v : Int} (hlo : -(2 ^ (n - 1) * 2) ≤ v) (hhi : v < 2 ^ (n - 1) * 2) :
    v < -2 ^ (n - 1) ∧ (BitVec.ofInt n v).toInt = v + 2 ^ (n - 1) * 2 ∨
    (-2 ^ (n - 1) ≤ v ∧ v < 2 ^ (n - 1)) ∧ (BitVec.ofInt n v).toInt = v ∨
    2 ^ (n - 1) ≤ v ∧ (BitVec.ofInt n v).toInt = v - 2 ^ (n - 1) * 2 := by
  have hpow : ((2 ^ n : Nat) : Int) = 2 ^ (n - 1) * 2 := by
    push_cast
    rw [← pow_succ, Nat.sub_add_cancel hn]
  have hmod : v % (2 ^ (n - 1) * 2) = v ∨ v % (2 ^ (n - 1) * 2) = v + 2 ^ (n - 1) * 2 := by
    rcases lt_or_ge v 0 with hv | hv
    · exact .inr (by rw [← Int.add_emod_right, Int.emod_eq_of_lt (by omega) (by omega)])
    · exact .inl (Int.emod_eq_of_lt hv hhi)
  have hlo' := (BitVec.ofInt n v).le_toInt
  have hhi' := (BitVec.ofInt n v).toInt_lt
  rw [BitVec.toInt_ofInt, Int.bmod_def, hpow] at hlo' hhi' ⊢
  split at hlo' <;> omega

/-- The sum of two words, as the word of the sum of the signed numbers. -/
theorem ofNat_sum_eq_ofInt (k : Nat) :
    BitVec.ofNat n (a.toNat + b.toNat + k) = BitVec.ofInt n (a.toInt + b.toInt + k) := by
  simp [BitVec.ofNat_add, BitVec.ofInt_add]

/-- The difference of two words, as the word of the difference of the signed numbers. -/
theorem ofInt_difference_eq (k : Nat) :
    BitVec.ofInt n (a.toNat - b.toNat - k) = BitVec.ofInt n (a.toInt - b.toInt - k) := by
  simp [Int.sub_eq_add_neg, BitVec.ofInt_add, BitVec.ofInt_neg]

/-- The signs of the operands and of the sum tell that the signed sum left its range (R201). -/
theorem addFlags_ofl_iff (hn : 0 < n) : (addFlags a b c f).2.ofl = true ↔
    a.toInt + b.toInt + c.toNat < -2 ^ (n - 1) ∨ 2 ^ (n - 1) ≤ a.toInt + b.toInt + c.toNat := by
  have hc := c.toNat_le
  have ha := And.intro a.le_toInt a.toInt_lt
  have hb := And.intro b.le_toInt b.toInt_lt
  have hr := toInt_ofInt_cases hn (v := a.toInt + b.toInt + c.toNat) (by omega) (by omega)
  simp only [addFlags, setSZP, ofNat_sum_eq_ofInt, BitVec.msb_eq_toInt, Bool.and_eq_true, beq_iff_eq, bne_iff_ne, ne_eq,
    decide_eq_decide]
  omega

/-- The signs of the operands and of the difference tell that the signed difference left its range (R202). -/
theorem subFlags_ofl_iff (hn : 0 < n) : (subFlags a b c f).2.ofl = true ↔
    a.toInt - b.toInt - c.toNat < -2 ^ (n - 1) ∨ 2 ^ (n - 1) ≤ a.toInt - b.toInt - c.toNat := by
  have hc := c.toNat_le
  have ha := And.intro a.le_toInt a.toInt_lt
  have hb := And.intro b.le_toInt b.toInt_lt
  have hr := toInt_ofInt_cases hn (v := a.toInt - b.toInt - c.toNat) (by omega) (by omega)
  simp only [subFlags, setSZP, ofInt_difference_eq, BitVec.msb_eq_toInt, Bool.and_eq_true, bne_iff_ne, ne_eq,
    decide_eq_decide]
  omega

theorem addFlags_cf_iff : (addFlags a b c f).2.cf = true ↔ (2 : Int) ^ n ≤ a.toNat + b.toNat + c.toNat := by
  refine decide_eq_true_iff.trans ?_
  exact_mod_cast Iff.rfl

theorem subFlags_cf_iff_neg : (subFlags a b c f).2.cf = true ↔ (a.toNat : Int) - b.toNat - c.toNat < 0 := by
  refine decide_eq_true_iff.trans ?_
  omega

/-- Bit 4 of a word made of an integer is that digit of the integer. -/
theorem getLsbD_four_ofInt (hn : 4 < n) (v : Int) :
    (BitVec.ofInt n v).getLsbD 4 = decide (v / 16 % 2 = 1) := by
  have hmod : v % 2 ^ n % 32 = v % 32 := Int.emod_emod_of_dvd v (pow_dvd_pow (2 : Int) (show 5 ≤ n by omega))
  have hnat : ((BitVec.ofInt n v).toNat : Int) = v % 2 ^ n := by
    rw [BitVec.toNat_ofInt]
    push_cast
    exact Int.toNat_of_nonneg (Int.emod_nonneg v (by positivity))
  rw [getLsbD_eq_digit, decide_eq_decide]
  omega

/-- Bit 4 of the three words tells the digit that came into it from the low four bits (R201, R202). -/
theorem xor_getLsbD_four_iff (hn : 4 < n) (v : Int) : (a ^^^ b ^^^ BitVec.ofInt n v).getLsbD 4 = true ↔
    ((a.toNat / 16 % 2 = 1 ↔ b.toNat / 16 % 2 = 1) ↔ v / 16 % 2 = 1) := by
  rw [BitVec.getLsbD_xor, BitVec.getLsbD_xor, getLsbD_four_ofInt hn, getLsbD_eq_digit, getLsbD_eq_digit]
  exact xor_three_iff _ _ _

theorem addFlags_af_iff (hn : 4 < n) : (addFlags a b c f).2.af = true ↔
    16 ≤ (a.toNat % 16 : Int) + (b.toNat % 16 : Int) + c.toNat := by
  have hc := c.toNat_le
  have h := xor_getLsbD_four_iff a b hn ((a.toNat + b.toNat + c.toNat : Nat) : Int)
  rw [BitVec.ofInt_natCast] at h
  refine h.trans ?_
  omega

theorem subFlags_af_iff (hn : 4 < n) : (subFlags a b c f).2.af = true ↔
    (a.toNat % 16 : Int) - (b.toNat % 16 : Int) - c.toNat < 0 := by
  have hc := c.toNat_le
  refine (xor_getLsbD_four_iff a b hn _).trans ?_
  omega

end

/-! ### The two-operand instructions (R205, R210 to R218) -/

section
variable {s : State} {i : Instr} {op : AluOp} {w : Width} {dst : EOperand} {src : Claims.Source w} {a b : BitVec w.bits}

/-- Every form of an operation with a result: what is written, the flags, the records. -/
theorem exec_twoOperand_ok (h : Claims.TwoOperand s i op w dst src) (hop : op ≠ .cmp)
    (hbacked : s.operandBacked w dst = true) (ha : s.Reads w dst a) (hb : src.Has s b) :
    ∃ g m, exec i s = .next { s with
        regs := g
        mem := m
        flags := (aluResult op a b s.flags).2
        trace := s.trace ++ (src.records s ++ (s.operandRecords .read w dst ++ s.operandRecords .write w dst)) } ∧
      s.Puts w dst (aluResult op a b s.flags).1 g m := by
  obtain ⟨g, m, hop, hputs⟩ := aluOnE_ok b hop hbacked ha
  refine ⟨g, m, ?_, hputs⟩
  rw [exec_twoOperand h hb, hop]
  rfl

/-- Every form of CMP: the flags and the records. -/
theorem exec_cmp_ok (h : Claims.TwoOperand s i .cmp w dst src) (hbacked : s.operandBacked w dst = true)
    (ha : s.Reads w dst a) (hb : src.Has s b) :
    exec i s = .next { s with
      flags := (aluResult .cmp a b s.flags).2
      trace := s.trace ++ (src.records s ++ s.operandRecords .read w dst) } := by
  rw [exec_twoOperand h hb, aluOnE_cmp b hbacked ha]
  rfl

/-- Every two-operand instruction leaves the flags of its operation. -/
theorem flags_of_exec_twoOperand {t : State} (h : Claims.TwoOperand s i op w dst src)
    (hbacked : s.operandBacked w dst = true) (ha : s.Reads w dst a) (hb : src.Has s b) (hexec : exec i s = .next t) :
    t.flags = (aluResult op a b s.flags).2 := by
  by_cases hop : op = .cmp
  · subst hop
    rw [exec_cmp_ok h hbacked ha hb] at hexec
    cases hexec
    rfl
  · obtain ⟨g, m, hok, -⟩ := exec_twoOperand_ok h hop hbacked ha hb
    rw [hok] at hexec
    cases hexec
    rfl

end

/-- Settles O33: ADD and ADC by `exec_twoOperand_ok`, with the result and the flags of R201. -/
theorem addAndAdcGiveTheSum : Obligations.AddAndAdcGiveTheSum := by
  intro s i op w dst src a b c h hop hbacked ha hb
  obtain ⟨hcmp, hresult⟩ : op ≠ .cmp ∧ aluResult op a b s.flags =
      (BitVec.ofNat w.bits (a.toNat + b.toNat + c), Claims.sumFlags a b c s.flags) := by
    obtain ⟨rfl, rfl⟩ | ⟨rfl, rfl⟩ := hop
    · exact ⟨nofun, addFlags_eq_sumFlags a b false s.flags⟩
    · exact ⟨nofun, addFlags_eq_sumFlags a b s.flags.cf s.flags⟩
  have hok := exec_twoOperand_ok h hcmp hbacked ha hb
  rwa [hresult] at hok

/-- Settles O34: SUB and SBB by `exec_twoOperand_ok`, CMP by `exec_cmp_ok`, with the result and the flags of R202. -/
theorem subSbbAndCmpGiveTheDifference : Obligations.SubSbbAndCmpGiveTheDifference := by
  refine ⟨fun s i op w dst src a b c h hop hbacked ha hb => ?_, fun s i w dst src a b h hbacked ha hb => ?_⟩
  · obtain ⟨hcmp, hresult⟩ : op ≠ .cmp ∧ aluResult op a b s.flags =
        (BitVec.ofInt w.bits (a.toNat - b.toNat - c), Claims.differenceFlags a b c s.flags) := by
      obtain ⟨rfl, rfl⟩ | ⟨rfl, rfl⟩ := hop
      · exact ⟨nofun, subFlags_eq_differenceFlags a b false s.flags⟩
      · exact ⟨nofun, subFlags_eq_differenceFlags a b s.flags.cf s.flags⟩
    have hok := exec_twoOperand_ok h hcmp hbacked ha hb
    rwa [hresult] at hok
  · have hok := exec_cmp_ok h hbacked ha hb
    rwa [show aluResult .cmp a b s.flags = _ from subFlags_eq_differenceFlags a b false s.flags] at hok

/-- Every form of TEST reads its source and tests its first operand with it (R218). -/
theorem exec_tests {s : State} {i : Instr} {w : Width} {e : EOperand} {src : Claims.Source w} {b : BitVec w.bits}
    (h : Claims.Tests s i w e src) (hb : src.Has s b) : exec i s = testE w e b s ∧ src.records s = [] := by
  cases h with
  | testEbGb | testEvGv =>
    obtain ⟨-, hreg⟩ := hb
    obtain rfl := (s.readReg_eq_view _ _).trans hreg
    exact ⟨rfl, rfl⟩
  | testAlIb | testEbIb =>
    obtain rfl := hb
    exact ⟨rfl, rfl⟩
  | testEaxIv | testEvIv =>
    obtain rfl := Eq.trans hb (immBits_eq_immValue _ _)
    exact ⟨rfl, rfl⟩

/-- Settles O35: AND, OR and XOR by `exec_twoOperand_ok`, TEST by `testE_ok`, with the flags of R204. -/
theorem logicInstructionsAndTest : Obligations.LogicInstructionsAndTest := by
  refine ⟨fun s i op w dst src a b r h hop hbacked ha hb => ?_, fun s i w e src a b h hbacked ha hb => ?_⟩
  · obtain ⟨hcmp, hresult⟩ : op ≠ .cmp ∧ aluResult op a b s.flags = (r, Claims.bitwiseFlags r s.flags) := by
      rw [← logicFlags_eq_bitwiseFlags]
      obtain ⟨rfl, rfl⟩ | ⟨rfl, rfl⟩ | ⟨rfl, rfl⟩ := hop <;> exact ⟨nofun, rfl⟩
    have hok := exec_twoOperand_ok h hcmp hbacked ha hb
    rwa [hresult] at hok
  · obtain ⟨hexec, hrecords⟩ := exec_tests h hb
    rw [hexec, hrecords, testE_ok b hbacked ha, logicFlags_eq_bitwiseFlags, List.nil_append]

/-- Settles O36: the operation's flags, by what CF, OF and AF of a sum and of a difference report. -/
theorem carryAndOverflowReportTheRange : Obligations.CarryAndOverflowReportTheRange := by
  intro s t i op w dst src a b h hbacked ha hb hexec c
  have hw := w.eight_le_bits
  rw [flags_of_exec_twoOperand h hbacked ha hb hexec]
  refine ⟨fun hop => ?_, fun hop => ?_⟩
  · obtain ⟨k, hresult, hc⟩ : ∃ k : Bool, aluResult op a b s.flags = addFlags a b k s.flags ∧ c = k.toNat := by
      obtain rfl | rfl := hop
      · exact ⟨false, rfl, rfl⟩
      · exact ⟨s.flags.cf, rfl, rfl⟩
    rw [hresult, hc]
    exact ⟨addFlags_cf_iff .., addFlags_ofl_iff _ _ _ _ (by omega), addFlags_af_iff _ _ _ _ (by omega)⟩
  · obtain ⟨k, hresult, hc⟩ : ∃ k : Bool, aluResult op a b s.flags = subFlags a b k s.flags ∧ c = k.toNat := by
      obtain rfl | rfl | rfl := hop
      · exact ⟨false, rfl, rfl⟩
      · exact ⟨s.flags.cf, rfl, rfl⟩
      · exact ⟨false, rfl, rfl⟩
    rw [hresult, hc]
    exact ⟨subFlags_cf_iff_neg .., subFlags_ofl_iff _ _ _ _ (by omega), subFlags_af_iff _ _ _ _ (by omega)⟩

/-! ### INC, DEC, NEG, NOT (R220 to R223) -/

theorem incResult_eq {n : Nat} (a : BitVec n) (f : Flags) :
    incResult a f = (a + 1, { Claims.sumFlags a 1 0 f with cf := f.cf }) := by
  rw [← addFlags_fst a 1 f]
  unfold incResult
  rw [addFlags_eq_sumFlags]
  rfl

theorem decResult_eq {n : Nat} (a : BitVec n) (f : Flags) :
    decResult a f = (a - 1, { Claims.differenceFlags a 1 0 f with cf := f.cf }) := by
  rw [← subFlags_fst a 1 f]
  unfold decResult
  rw [subFlags_eq_differenceFlags]
  rfl

theorem exec_incDec {s : State} {i : Instr} {up : Bool} {w : Width} {e : EOperand} (h : Claims.IncDec s i up w e) :
    exec i s = unaryE w (if up then incResult else decResult) e s := by
  cases h <;> rfl

/-- Settles O38: INC and DEC are unary operations, with the flags of an addition or subtraction of 1. -/
theorem incAndDecKeepTheCarry : Obligations.IncAndDecKeepTheCarry := by
  intro s i up w e a h hbacked ha
  rw [exec_incDec h]
  cases up with
  | true =>
    have hok := unaryE_ok incResult hbacked ha
    rwa [incResult_eq] at hok
  | false =>
    have hok := unaryE_ok decResult hbacked ha
    rwa [decResult_eq] at hok

theorem toInt_eq_neg_two_pow_iff {n : Nat} (hn : 0 < n) (a : BitVec n) :
    a.toInt = -2 ^ (n - 1) ↔ a.toNat = 2 ^ (n - 1) := by
  have hpow : 2 ^ n = 2 ^ (n - 1) * 2 := by rw [← pow_succ, Nat.sub_add_cancel hn]
  have hcast : ((2 ^ (n - 1) : Nat) : Int) = 2 ^ (n - 1) := by push_cast; rfl
  have hlt := a.isLt
  rw [BitVec.toInt_eq_toNat_cond, ← hcast]
  split <;> omega

/-- The flags of 0 minus the operand (R222). -/
theorem negResult_eq {n : Nat} (hn : 4 < n) (a : BitVec n) (f : Flags) :
    subFlags 0 a false f = (-a, Claims.resultFlags (-a) { f with
      cf := decide (a ≠ 0)
      ofl := decide (a.toNat = 2 ^ (n - 1))
      af := decide (a.toNat % 16 ≠ 0) }) := by
  have hvalue : (subFlags 0 a false f).1 = -a := by rw [subFlags_fst, zero_sub]
  have hcf : (subFlags 0 a false f).2.cf = decide (a ≠ 0) := by
    rw [Bool.eq_iff_iff, subFlags_cf_iff, decide_eq_true_iff]
    simp [Nat.pos_iff_ne_zero, ← BitVec.toNat_inj]
  have hofl : (subFlags 0 a false f).2.ofl = decide (a.toNat = 2 ^ (n - 1)) := by
    have := a.toInt_lt
    have := a.le_toInt
    rw [Bool.eq_iff_iff, subFlags_ofl_iff _ _ _ _ (by omega), decide_eq_true_iff,
      ← toInt_eq_neg_two_pow_iff (by omega)]
    simp only [BitVec.ofNat_eq_ofNat, BitVec.toInt_zero, Bool.toNat_false]
    omega
  have haf : (subFlags 0 a false f).2.af = decide (a.toNat % 16 ≠ 0) := by
    rw [Bool.eq_iff_iff, subFlags_af_iff _ _ _ _ hn, decide_eq_true_iff]
    simp only [BitVec.ofNat_eq_ofNat, BitVec.toNat_ofNat, Nat.zero_mod, Bool.toNat_false]
    omega
  rw [← hcf, ← hofl, ← haf, ← setSZP_eq_resultFlags, ← hvalue]
  rfl

/-- Settles O39: NEG and NOT are unary operations. -/
theorem negAndNot : Obligations.NegAndNot := by
  refine ⟨fun s i w e a h hbacked ha => ?_, fun s i w e a h hbacked ha => ?_⟩
  · have hw := w.eight_le_bits
    have hexec : exec i s = unaryE w (fun a f => subFlags 0 a false f) e s := by
      obtain ⟨rfl, rfl⟩ | ⟨rfl, rfl⟩ := h <;> rfl
    have hok := unaryE_ok (fun a f => subFlags 0 a false f) hbacked ha
    rw [hexec]
    simpa only [negResult_eq (show 4 < w.bits by omega)] using hok
  · have hexec : exec i s = unaryE w (fun a f => (a ^^^ BitVec.allOnes w.bits, f)) e s := by
      obtain ⟨rfl, rfl⟩ | ⟨rfl, rfl⟩ := h <;> rfl
    have hok := unaryE_ok (fun a f => (a ^^^ BitVec.allOnes w.bits, f)) hbacked ha
    rw [hexec]
    simpa only [BitVec.xor_allOnes] using hok

/-! ### The double-width accumulator (R230, R232) -/

theorem highAcc_eq_accHigh (w : Width) : highAcc w = Claims.accHigh w := by cases w <;> rfl

theorem State.accPair_eq (s : State) (w : Width) :
    s.accPair w = (s.regs.view w (Claims.accHigh w), s.regs.view w .r0) := by
  rw [State.accPair, s.readReg_eq_view, s.readReg_eq_view, highAcc_eq_accHigh]

/-- An instruction that ends in a write of the accumulator pair and of the flags changes those and nothing else. -/
theorem next_writeAccPair (s : State) (w : Width) (hi lo : BitVec w.bits) (f : Flags) (l : List TraceRecord) :
    ∃ g g', s.regs.Wrote w .r0 lo g ∧ g.Wrote w (Claims.accHigh w) hi g' ∧
      ofEff (.ok (writeAccPair w hi lo (s.setFlags f)) l) =
        .next { s with regs := g', flags := f, trace := s.trace ++ l } := by
  obtain ⟨g, g', hlo, hhi, hpair⟩ := writeAccPair_wrote w hi lo (s.setFlags f)
  rw [highAcc_eq_accHigh] at hhi
  exact ⟨g, g', hlo, hhi, by rw [hpair]; rfl⟩

/-- An instruction that reads its operand and completes had an operand that can be accessed (R63). -/
theorem State.operandBacked_of_next {s t : State} {w : Width} {e : EOperand} {f : BitVec w.bits → Eff State}
    (h : ofEff ((s.readE w e).bind f) = .next t) : s.operandBacked w e = true := by
  rcases s.readE_cases w e with ⟨hb, -⟩ | ⟨-, herror⟩
  · exact hb
  · rw [herror] at h
    cases h

/-! ### MUL and IMUL (R230, R231) -/

/-- The product of the accumulator and `b`: of the unsigned numbers, or of the signed ones (R230, R231). -/
def State.product (s : State) (sg : Bool) (w : Width) (b : BitVec w.bits) : Int :=
  if sg then (s.regs.view w .r0).toInt * b.toInt else (s.regs.view w .r0).toNat * b.toNat

/-- Does the high half of a product hold more than the extension of its low half (R230, R231)? -/
def productIsWide (sg : Bool) (w : Width) (p : Int) : Bool :=
  if sg then p != (BitVec.ofInt w.bits p).toInt else 2 ^ w.bits ≤ p

/-- The flags after MUL and IMUL (R230, R231). -/
def State.productFlags (s : State) (sg : Bool) (w : Width) (b : BitVec w.bits) : Flags :=
  mulFlags (if sg then .imul else .mul) w ((s.regs.view w .r0).setWidth 64) (b.setWidth 32)
    (productIsWide sg w (s.product sg w b)) s.flags

/-- The high half of an unsigned product is not 0 when the product does not fit in the low half (R230). -/
theorem ofNat_high_bne_zero {n : Nat} (a b : BitVec n) :
    (BitVec.ofNat n (a.toNat * b.toNat / 2 ^ n) != 0) = decide ((2 : Int) ^ n ≤ a.toNat * b.toNat) := by
  have hlt : a.toNat * b.toNat / 2 ^ n < 2 ^ n :=
    Nat.div_lt_of_lt_mul (Nat.mul_lt_mul'' a.isLt b.isLt)
  rw [Bool.eq_iff_iff, bne_iff_ne, decide_eq_true_iff, ne_eq, ← BitVec.toNat_inj, BitVec.toNat_ofNat,
    Nat.mod_eq_of_lt hlt, BitVec.ofNat_eq_ofNat, BitVec.toNat_ofNat, Nat.zero_mod, Nat.div_eq_zero_iff]
  have hpos : 2 ^ n ≠ 0 := by positivity
  simp only [hpos, false_or, not_lt]
  exact_mod_cast Iff.rfl

/-- MUL and IMUL write the two halves of the product and the flags (R230, R231). -/
theorem exec_multiplies {s : State} {i : Instr} {sg : Bool} {w : Width} {e : EOperand} {b : BitVec w.bits}
    (h : Claims.Multiplies s i sg w e) (hbacked : s.operandBacked w e = true) (hb : s.Reads w e b) :
    exec i s = ofEff (.ok (writeAccPair w (BitVec.ofInt w.bits (s.product sg w b / 2 ^ w.bits))
      (BitVec.ofInt w.bits (s.product sg w b)) (s.setFlags (s.productFlags sg w b))) (s.operandRecords .read w e)) := by
  have hmul : mulE w e s = ofEff (.ok (writeAccPair w (BitVec.ofInt w.bits (s.product false w b / 2 ^ w.bits))
      (BitVec.ofInt w.bits (s.product false w b)) (s.setFlags (s.productFlags false w b)))
      (s.operandRecords .read w e)) := by
    have hhigh : s.product false w b / 2 ^ w.bits =
        ((s.regs.view w .r0).toNat * b.toNat / 2 ^ w.bits : Nat) := by push_cast; rfl
    have hlow : s.product false w b = ((s.regs.view w .r0).toNat * b.toNat : Nat) := by push_cast; rfl
    rw [hhigh, hlow, BitVec.ofInt_natCast, BitVec.ofInt_natCast]
    unfold mulE
    rw [State.readE_ok hbacked hb, s.readReg_eq_view, Eff.ok_bind]
    dsimp only
    rw [ofNat_high_bne_zero, Eff.after_ok, List.append_nil]
    rfl
  have himul : imulE w e s = ofEff (.ok (writeAccPair w (BitVec.ofInt w.bits (s.product true w b / 2 ^ w.bits))
      (BitVec.ofInt w.bits (s.product true w b)) (s.setFlags (s.productFlags true w b)))
      (s.operandRecords .read w e)) := by
    unfold imulE
    rw [State.readE_ok hbacked hb, s.readReg_eq_view, Eff.ok_bind, Eff.after_ok, List.append_nil]
    rfl
  cases h with
  | mulEb | mulEv => exact hmul
  | imulEb | imulEv => exact himul

/-- Settles O40: the two halves of the product, CF and OF by `productIsWide`. -/
theorem mulAndImulGiveTheProduct : Obligations.MulAndImulGiveTheProduct := by
  intro s i sg w e b p h hbacked hb hp
  obtain rfl : p = s.product sg w b := hp
  obtain ⟨g, g', hlo, hhi, hnext⟩ := next_writeAccPair s w (BitVec.ofInt w.bits (s.product sg w b / 2 ^ w.bits))
    (BitVec.ofInt w.bits (s.product sg w b)) (s.productFlags sg w b) (s.operandRecords .read w e)
  refine ⟨g, g', _, hlo, hhi, (exec_multiplies h hbacked hb).trans hnext, ?_, rfl, rfl⟩
  cases sg with
  | false => exact decide_eq_true_iff
  | true => exact bne_iff_ne

/-! ### DIV and IDIV (R232, R233) -/

/-- The flags after DIV and IDIV by `d` (R203, R232). -/
def State.quotientFlags (s : State) (op : UndefOp) (w : Width) (d : BitVec w.bits) : Flags :=
  divFlags op w (dividendBits w (s.regs.view w (Claims.accHigh w)) (s.regs.view w .r0)) (d.setWidth 32) s.flags

/-- How DIV and IDIV by `d` end: in the divide error, or with quotient and remainder in the accumulator pair
(R232, R233). -/
def divideEnd (op : UndefOp) (w : Width) (d : BitVec w.bits) (error : Prop) [Decidable error] (q r : BitVec w.bits)
    (s : State) : Eff State :=
  if error then divideError s else .ok (writeAccPair w r q (s.setFlags (s.quotientFlags op w d))) []

section
variable {s : State} {w : Width} {e : EOperand} {d : BitVec w.bits}

theorem divE_eq (hbacked : s.operandBacked w e = true) (hd : s.Reads w e d) {n : Nat}
    (hn : n = (s.regs.view w (Claims.accHigh w)).toNat * 2 ^ w.bits + (s.regs.view w .r0).toNat) :
    divE w e s = ofEff ((divideEnd .div w d (d = 0 ∨ 2 ^ w.bits ≤ n / d.toNat) (BitVec.ofNat w.bits (n / d.toNat))
      (BitVec.ofNat w.bits (n % d.toNat)) s).after (s.operandRecords .read w e)) := by
  subst hn
  unfold divE
  rw [State.readE_ok hbacked hd, s.accPair_eq]
  rfl

theorem idivE_eq (hbacked : s.operandBacked w e = true) (hd : s.Reads w e d) {n : Int}
    (hn : n = (s.regs.view w (Claims.accHigh w)).toInt * 2 ^ w.bits + (s.regs.view w .r0).toNat) :
    idivE w e s = ofEff ((divideEnd .idiv w d
      (d = 0 ∨ 2 ^ (w.bits - 1) ≤ n.tdiv d.toInt ∨ n.tdiv d.toInt < -2 ^ (w.bits - 1))
      (BitVec.ofInt w.bits (n.tdiv d.toInt)) (BitVec.ofInt w.bits (n.tmod d.toInt)) s).after
        (s.operandRecords .read w e)) := by
  subst hn
  unfold idivE
  rw [State.readE_ok hbacked hd, s.accPair_eq]
  rfl

variable {op : UndefOp} {error : Prop} [Decidable error] {q r : BitVec w.bits} {l : List TraceRecord}

/-- Without the divide error: the quotient, then the remainder is written; IF is kept (R232, R233). -/
theorem divideEnd_ok (h : ¬ error) : ∃ g g' f, s.regs.Wrote w .r0 q g ∧ g.Wrote w (Claims.accHigh w) r g' ∧
    ofEff ((divideEnd op w d error q r s).after l) =
      .next { s with regs := g', flags := f, trace := s.trace ++ l } ∧
    Claims.SameIf s.flags f := by
  obtain ⟨g, g', hq, hr, hnext⟩ := next_writeAccPair s w r q (s.quotientFlags op w d) l
  refine ⟨g, g', s.quotientFlags op w d, hq, hr, ?_, rfl⟩
  rwa [divideEnd, if_neg h, Eff.after_ok, List.append_nil]

/-- The flags after DIV and IDIV: IF cleared by the divide error, or the open flags (R203, R232, R520). -/
theorem flags_of_divideEnd {t : State} (h : ofEff ((divideEnd op w d error q r s).after l) = .next t) :
    t.flags = if error then { s.flags with ifl := false } else s.quotientFlags op w d := by
  unfold divideEnd at h
  split at h
  · rename_i herror
    rw [if_pos herror]
    unfold divideError at h
    rcases s.interrupt_out 0 s.ipStart with ⟨u, hu, g, m, cs, ip, rfl, -⟩ | ⟨x, hx, -⟩
    · rw [hu] at h
      cases h
      rfl
    · rw [hx] at h
      cases h
  · rename_i herror
    rw [if_neg herror]
    cases h
    rfl

end

theorem exec_divides {s : State} {i : Instr} {sg : Bool} {w : Width} {e : EOperand} (h : Claims.Divides s i sg w e) :
    exec i s = if sg then idivE w e s else divE w e s := by
  cases h <;> rfl

/-- Settles O41: a divisor that is not 0 and a quotient that fits give no divide error. -/
theorem divGivesQuotientAndRemainder : Obligations.DivGivesQuotientAndRemainder := by
  intro s i w e d n h hbacked hd hn hzero hfits
  rw [exec_divides h]
  simp only [Bool.false_eq_true, if_false, divE_eq hbacked hd hn]
  exact divideEnd_ok (by rw [not_or, not_le]; exact ⟨hzero, hfits⟩)

/-- Settles O42: the quotient and remainder of the statement are those that round toward zero. -/
theorem idivRoundsTowardZero : Obligations.IdivRoundsTowardZero := by
  intro s i w e d n q r h hbacked hd hn hzero hdiv hlt hsign hlow hhigh
  have hzero' : d.toInt ≠ 0 := fun h0 => hzero (BitVec.toInt_inj.1 (h0.trans BitVec.toInt_zero.symm))
  obtain ⟨rfl, rfl⟩ := tdiv_tmod_unique n d.toInt q r hzero' hdiv hlt hsign
  rw [exec_divides h]
  simp only [if_true, idivE_eq hbacked hd hn]
  exact divideEnd_ok (by rw [not_or, not_or, not_le, not_lt]; exact ⟨hzero, hhigh, hlow⟩)

/-! ### The open flags (R203) -/

/-- Every form of a shift or rotate does its operation on its operand, with its count (R260). -/
theorem exec_shifts {s : State} {i : Instr} {op : ShiftOp} {w : Width} {e : EOperand} {c : Byte}
    (h : Claims.Shifts s i op w e c) : exec i s = shiftE op w e c s := by
  cases h
  case rolEbCl | rorEbCl | rclEbCl | rcrEbCl | shlEbCl | shrEbCl | sarEbCl | rolEvCl | rorEvCl | rclEvCl | rcrEvCl
      | shlEvCl | shrEvCl | sarEvCl =>
    rw [← s.readReg_eq_view]
    rfl
  all_goals rfl

/-- The flags after a shift or rotate: as before for a count of 0, else those of the operation (R260, R261). -/
theorem flags_of_shiftE {s t : State} {op : ShiftOp} {w : Width} {e : EOperand} {c : Byte} {a : BitVec w.bits}
    (ha : s.Reads w e a) (h : shiftE op w e c s = .next t) :
    t.flags = if c.toNat % 32 = 0 then s.flags else (shiftResult op w a (c.toNat % 32) s.flags).2 := by
  have hbacked : s.operandBacked w e = true := State.operandBacked_of_next h
  split
  · rename_i hc
    unfold shiftE at h
    rw [State.readE_ok hbacked ha, Eff.ok_bind] at h
    simp only [hc, if_true] at h
    cases h
    rfl
  · rename_i hc
    obtain ⟨g, m, hok, -⟩ := shiftE_ok hbacked ha hc
    rw [hok] at h
    cases h
    rfl

theorem operandBacked_of_exec_multiplies {s t : State} {i : Instr} {sg : Bool} {w : Width} {e : EOperand}
    (h : Claims.Multiplies s i sg w e) (hexec : exec i s = .next t) : s.operandBacked w e = true := by
  cases h <;> exact State.operandBacked_of_next hexec

theorem operandBacked_of_exec_divides {s t : State} {i : Instr} {sg : Bool} {w : Width} {e : EOperand}
    (h : Claims.Divides s i sg w e) (hexec : exec i s = .next t) : s.operandBacked w e = true := by
  cases h <;> exact State.operandBacked_of_next hexec

/-- The flags after MUL and IMUL, as the operation gives them (R203, R230). -/
theorem flags_of_exec_multiplies {s t : State} {i : Instr} {sg : Bool} {w : Width} {e : EOperand} {b : BitVec w.bits}
    (h : Claims.Multiplies s i sg w e) (hb : s.Reads w e b) (hexec : exec i s = .next t) :
    t.flags = s.productFlags sg w b := by
  rw [exec_multiplies h (operandBacked_of_exec_multiplies h hexec) hb] at hexec
  cases hexec
  rfl

theorem State.productFlags_congr {s s' : State} {sg : Bool} {w : Width} {b : BitVec w.bits}
    (hlow : s.regs.view w .r0 = s'.regs.view w .r0) (hf : s.flags = s'.flags) :
    s.productFlags sg w b = s'.productFlags sg w b := by
  unfold State.productFlags State.product
  rw [hlow, hf]

theorem State.quotientFlags_congr {s s' : State} {op : UndefOp} {w : Width} {d : BitVec w.bits}
    (hlow : s.regs.view w .r0 = s'.regs.view w .r0)
    (hhigh : s.regs.view w (Claims.accHigh w) = s'.regs.view w (Claims.accHigh w)) (hf : s.flags = s'.flags) :
    s.quotientFlags op w d = s'.quotientFlags op w d := by
  unfold State.quotientFlags
  rw [hlow, hhigh, hf]

/-- Settles O28: the flags after each instruction as a function of what the statement names. -/
theorem undefinedFlagsAreAFunction : Obligations.UndefinedFlagsAreAFunction := by
  refine ⟨fun s s' t t' i i' op w e e' c a h h' ha ha' hf hexec hexec' => ?_,
    fun s s' t t' i i' sg w e e' a h h' ha ha' hlow hf hexec hexec' => ?_,
    fun s s' t t' i i' sg w e e' a h h' ha ha' hlow hhigh hf hexec hexec' => ?_⟩
  · rw [exec_shifts h] at hexec
    rw [exec_shifts h'] at hexec'
    rw [flags_of_shiftE ha hexec, flags_of_shiftE ha' hexec', hf]
  · rw [flags_of_exec_multiplies h ha hexec, flags_of_exec_multiplies h' ha' hexec', State.productFlags_congr hlow hf]
  · have hb := operandBacked_of_exec_divides h hexec
    have hb' := operandBacked_of_exec_divides h' hexec'
    rw [exec_divides h] at hexec
    rw [exec_divides h'] at hexec'
    cases sg with
    | false =>
      rw [flags_of_divideEnd ((divE_eq hb ha rfl).symm.trans hexec),
        flags_of_divideEnd ((divE_eq hb' ha' rfl).symm.trans hexec'), hlow, hhigh, hf,
        State.quotientFlags_congr hlow hhigh hf]
    | true =>
      rw [flags_of_divideEnd ((idivE_eq hb ha rfl).symm.trans hexec),
        flags_of_divideEnd ((idivE_eq hb' ha' rfl).symm.trans hexec'), hlow, hhigh, hf,
        State.quotientFlags_congr hlow hhigh hf]

end Sys2Proof.Machine

namespace Sys2Proof.Machine

/-! ## Shifts and rotates (R260 to R268) -/

/-! ### What is executed (R260) -/

section
variable {s : State} {i : Instr} {op : ShiftOp} {w : Width} {e : EOperand} {c : Byte}

/-- A count that is 0 modulo 32 only reads the operand (R260). -/
theorem shiftE_ok_of_count_zero (hbacked : s.operandBacked w e = true) (hc : c.toNat % 32 = 0) :
    shiftE op w e c s = .next { s with trace := s.trace ++ s.operandRecords .read w e } := by
  rcases s.readE_cases w e with ⟨-, a, hread, -⟩ | ⟨hn, -⟩
  · unfold shiftE
    rw [hread, Eff.ok_bind]
    simp only [hc, if_true]
    rw [Eff.after_ok, List.append_nil]
    rfl
  · rw [hbacked] at hn
    cases hn

/-- Every other count writes the result and the flags of the operation (R260, R261). -/
theorem exec_shifts_ok {a : BitVec w.bits} (h : Claims.Shifts s i op w e c) (hbacked : s.operandBacked w e = true)
    (ha : s.Reads w e a) (hc : c.toNat % 32 ≠ 0) :
    ∃ g m, exec i s = .next { s with
        regs := g
        mem := m
        flags := (shiftResult op w a (c.toNat % 32) s.flags).2
        trace := s.trace ++ (s.operandRecords .read w e ++ s.operandRecords .write w e) } ∧
      s.Puts w e (shiftValue op a s.flags.cf (c.toNat % 32)) g m := by
  rw [exec_shifts h]
  exact shiftE_ok hbacked ha hc

end

/-- Settles O44: only the read of the operand is left. -/
theorem zeroCountChangesNothing : Obligations.ZeroCountChangesNothing :=
  fun _ _ _ _ _ _ h hbacked hc => (exec_shifts h).trans (shiftE_ok_of_count_zero hbacked hc)

/-! ### The flags of a result (R261) -/

section
variable {op : ShiftOp} {w : Width} (a : BitVec w.bits) (cnt : Nat) (f : Flags)

theorem shiftResult_cf {b : Bool} (h : shiftCarry op a f.cf cnt = some b) :
    (shiftResult op w a cnt f).2.cf = b := by
  unfold shiftResult
  rw [h]
  cases op <;> rfl

theorem shiftResult_ofl_of_count_one (h : cnt = 1) : (shiftResult op w a cnt f).2.ofl =
    shiftOverflow op a (shiftValue op a f.cf cnt) (shiftResult op w a cnt f).2.cf := by
  subst h
  cases op <;> rfl

/-- A rotate writes CF and OF only (R261). -/
theorem shiftResult_flags_of_rotate (h : op.isShift = false) : (shiftResult op w a cnt f).2 =
    { f with cf := (shiftResult op w a cnt f).2.cf, ofl := (shiftResult op w a cnt f).2.ofl } := by
  unfold shiftResult
  simp only [h, Bool.false_eq_true, if_false]

/-- A shift sets ZF, SF and PF by its result (R200, R261). -/
theorem shiftResult_flags_of_shift (h : op.isShift = true) :
    (shiftResult op w a cnt f).2.zf = decide (shiftValue op a f.cf cnt = 0) ∧
      (shiftResult op w a cnt f).2.sf = (shiftValue op a f.cf cnt).msb ∧
      (shiftResult op w a cnt f).2.pf = Claims.evenOnes (shiftValue op a f.cf cnt) := by
  unfold shiftResult
  simp only [h, if_true, setSZP_eq_resultFlags]
  exact ⟨rfl, rfl, rfl⟩

end

/-! ### ROL and ROR (R262, R263) -/

/-- Which bit of the operand comes to place `k` by ROL or ROR. -/
theorem shiftValue_getLsbD_of_rotate {n : Nat} {op : ShiftOp} (hop : op = .rol ∨ op = .ror) (a : BitVec n) (cf : Bool)
    (cnt : Nat) {k : Nat} (hk : k < n) : (shiftValue op a cf cnt).getLsbD k =
      a.getLsbD ((if op = .rol then k + (n - cnt % n) else k + cnt) % n) := by
  have he : cnt % n ≤ n := (Nat.mod_lt cnt (by omega)).le
  obtain rfl | rfl := hop
  · exact rotl_getLsbD a _ k he hk
  · exact (rotr_getLsbD a _ k he hk).trans (by rw [Nat.add_mod_mod]; rfl)

/-- Settles O45: the bits by `shiftValue_getLsbD_of_rotate`, the flags as a rotate sets them. -/
theorem rolAndRorTurnTheOperand : Obligations.RolAndRorTurnTheOperand := by
  intro s i op w e c a h hop hbacked ha hc
  obtain ⟨g, m, hexec, hputs⟩ := exec_shifts_ok h hbacked ha hc
  refine ⟨_, g, m, _, hexec, hputs, fun k hk => shiftValue_getLsbD_of_rotate hop a _ _ hk, ?_, fun hone => ?_,
    shiftResult_flags_of_rotate a _ _ (by obtain rfl | rfl := hop <;> rfl)⟩
  · obtain rfl | rfl := hop <;> exact shiftResult_cf a _ _ rfl
  · obtain rfl | rfl := hop <;> exact shiftResult_ofl_of_count_one a _ _ hone

/-! ### RCL and RCR (R264, R265) -/

/-- The value of `n + 1` bits that RCL or RCR turns, CF its top bit, after the turn (R264, R265). -/
def carryTurn {n : Nat} (op : ShiftOp) (x : BitVec (n + 1)) (cnt : Nat) : BitVec (n + 1) :=
  if op = .rcl then rotl x (throughCarryCount n cnt) else rotr x (throughCarryCount n cnt)

/-- The turn is by the count modulo one more than the width, for 32 bits too (R264, R265). -/
theorem throughCarryCount_eq_mod (w : Width) {cnt : Nat} (h : cnt < 32) :
    throughCarryCount w.bits cnt = cnt % (w.bits + 1) := by
  unfold throughCarryCount
  split
  · rw [Nat.mod_eq_of_lt (by omega)]
  · rfl

/-- Which bit of the operand and CF comes to place `k` by RCL or RCR. -/
theorem carryTurn_getLsbD {w : Width} (op : ShiftOp) (x : BitVec (w.bits + 1)) {cnt : Nat} (h : cnt < 32) {k : Nat}
    (hk : k < w.bits + 1) : (carryTurn op x cnt).getLsbD k =
      x.getLsbD ((if op = .rcl then k + (w.bits + 1 - cnt % (w.bits + 1)) else k + cnt) % (w.bits + 1)) := by
  have he : cnt % (w.bits + 1) ≤ w.bits + 1 := (Nat.mod_lt cnt (by omega)).le
  unfold carryTurn
  rw [throughCarryCount_eq_mod w h]
  split
  · exact rotl_getLsbD x _ k he hk
  · rw [rotr_getLsbD x _ k he hk, Nat.add_mod_mod]

section
variable {n : Nat} {op : ShiftOp} (hop : op = .rcl ∨ op = .rcr) (a : BitVec n) (cf : Bool) (cnt : Nat)
include hop

theorem shiftValue_eq_carryTurn :
    shiftValue op a cf cnt = (carryTurn op (BitVec.cons cf a) cnt).setWidth n := by
  obtain rfl | rfl := hop <;> rfl

theorem shiftCarry_eq_carryTurn_msb :
    shiftCarry op a cf cnt = some (carryTurn op (BitVec.cons cf a) cnt).msb := by
  rw [BitVec.msb_eq_getLsbD_last, Nat.add_sub_cancel]
  obtain rfl | rfl := hop <;> rfl

end

/-- The two top bits of what remains of a word of `n + 1` bits without its top bit. -/
theorem setWidth_top_bits {n : Nat} (hn : 2 ≤ n) (y : BitVec (n + 1)) :
    (y.setWidth n).msb = y.getLsbD (n - 1) ∧ (y.setWidth n).getLsbD (n - 2) = y.getLsbD (n - 2) := by
  rw [BitVec.msb_eq_getLsbD_last, BitVec.getLsbD_setWidth, BitVec.getLsbD_setWidth]
  simp only [show n - 1 < n by omega, show n - 2 < n by omega, decide_true, Bool.true_and, and_self]

/-- Settles O46: `carryTurn` gives the value of w + 1 bits after the turn. -/
theorem rclAndRcrTurnThroughTheCarry : Obligations.RclAndRcrTurnThroughTheCarry := by
  intro s i op w e c a x h hop hbacked ha hc hx
  subst hx
  have hw := w.eight_le_bits
  have hcnt : c.toNat % 32 < 32 := Nat.mod_lt _ (by decide)
  have hvalue := shiftValue_eq_carryTurn hop a s.flags.cf (c.toNat % 32)
  obtain ⟨g, m, hexec, hputs⟩ := exec_shifts_ok h hbacked ha hc
  rw [hvalue] at hputs
  refine ⟨carryTurn op (BitVec.cons s.flags.cf a) (c.toNat % 32), g, m, _, hexec, hputs,
    fun k hk => carryTurn_getLsbD op _ hcnt hk, shiftResult_cf a _ _ (shiftCarry_eq_carryTurn_msb hop ..),
    fun hone => ?_, shiftResult_flags_of_rotate a _ _ (by obtain rfl | rfl := hop <;> rfl)⟩
  obtain ⟨hmsb, hbelow⟩ := setWidth_top_bits (by omega) (carryTurn op (BitVec.cons s.flags.cf a) (c.toNat % 32))
  rw [shiftResult_ofl_of_count_one a _ _ hone, hvalue, ← hmsb, ← hbelow]
  obtain rfl | rfl := hop <;> rfl

/-! ### SHL, SHR and SAR (R266 to R268) -/

/-- A left shift multiplies by a power of two (R266). -/
theorem shiftLeft_eq_ofNat_mul {n : Nat} (a : BitVec n) (cnt : Nat) :
    a <<< cnt = BitVec.ofNat n (a.toNat * 2 ^ cnt) := by
  apply BitVec.eq_of_toNat_eq
  rw [BitVec.toNat_shiftLeft, BitVec.toNat_ofNat, Nat.shiftLeft_eq]

/-- A right shift with zero fill divides by a power of two (R267). -/
theorem ushiftRight_eq_ofNat_div {n : Nat} (a : BitVec n) (cnt : Nat) :
    a >>> cnt = BitVec.ofNat n (a.toNat / 2 ^ cnt) := by
  apply BitVec.eq_of_toNat_eq
  rw [BitVec.toNat_ushiftRight, BitVec.toNat_ofNat, Nat.shiftRight_eq_div_pow,
    Nat.mod_eq_of_lt ((Nat.div_le_self _ _).trans_lt a.isLt)]

/-- The bit that SAR shifts out last (R268). -/
theorem shiftCarry_sar {w : Width} (a : BitVec w.bits) (cf : Bool) {cnt : Nat} (h : cnt < 32) :
    shiftCarry .sar a cf cnt = some (a.getLsbD (min (cnt - 1) (w.bits - 1))) :=
  congrArg some (sar_getLsbD w a (cnt - 1) (by omega))

/-- Settles O47: each shift's value as a product or a quotient, CF by `shiftCarry`, the other flags as a shift sets
them. -/
theorem shiftsMultiplyAndDivide : Obligations.ShiftsMultiplyAndDivide := by
  intro s i op w e c a r h hbacked ha hc hr
  have hcnt : c.toNat % 32 < 32 := Nat.mod_lt _ (by decide)
  obtain ⟨g, m, hexec, hputs⟩ := exec_shifts_ok h hbacked ha hc
  obtain ⟨hshift, hvalue⟩ : op.isShift = true ∧ shiftValue op a s.flags.cf (c.toNat % 32) = r := by
    obtain ⟨rfl, rfl⟩ | ⟨rfl, rfl⟩ | ⟨rfl, rfl⟩ := hr
    · exact ⟨rfl, shiftLeft_eq_ofNat_mul a _⟩
    · exact ⟨rfl, ushiftRight_eq_ofNat_div a _⟩
    · exact ⟨rfl, sar_value w a _⟩
  obtain ⟨hzf, hsf, hpf⟩ := shiftResult_flags_of_shift a (c.toNat % 32) s.flags hshift
  have hofl := shiftResult_ofl_of_count_one (op := op) a (c.toNat % 32) s.flags
  rw [hvalue] at hputs hzf hsf hpf hofl
  refine ⟨g, m, _, hexec, hputs, ?_, ?_, ?_, fun hone => ?_, hzf, hsf, hpf, shiftResult_ifl ..⟩
  · rintro rfl hlt
    exact shiftResult_cf a _ _ (if_pos hlt)
  · rintro rfl hlt
    exact shiftResult_cf a _ _ (if_pos hlt)
  · rintro rfl
    exact shiftResult_cf a _ _ (shiftCarry_sar a _ hcnt)
  · rw [hofl hone]
    obtain ⟨rfl, -⟩ | ⟨rfl, -⟩ | ⟨rfl, -⟩ := hr <;> rfl

end Sys2Proof.Machine

namespace Sys2Proof.Machine

/-! ## The stack (R300 to R310) and the return from an interrupt (R373) -/

/-! ### Flag images on the stack (R309, R373, U7) -/

theorem unsupportedImage_eq_true_iff (v : Half) :
    unsupportedImage v = true ↔ v.getLsbD 8 = true ∨ v.getLsbD 10 = true := by
  rw [unsupportedImage, Bool.or_eq_true]

/-- Everything IRET can do with the three words on the stack: load them, or refuse the image (R373, U7). -/
theorem State.interruptReturn_eq {s : State} {off sel image : Half} (hb : s.segBacked s.sregs.ss s.sp 6)
    (hh : s.Holds s.sregs.ss s.sp 6 (image ++ (sel ++ off))) :
    s.interruptReturn =
      if unsupportedImage image then .error .unsupportedFlagBit
      else .ok { s with
        regs := s.regs.write .w16 .r4 (s.sp + 6)
        sregs := s.sregs.set .cs sel
        ip := off
        flags := flagsOfImage image } (s.segRecords .read s.sregs.ss s.sp 6) := by
  rcases s.interruptReturn_cases with ⟨-, off', sel', image', hh', he⟩ | ⟨hn, -⟩
  · obtain ⟨himage, hfar⟩ := append_inj (State.Holds.unique_of_bytes rfl hh hh')
    obtain ⟨hsel, hoff⟩ := append_inj hfar
    rw [himage, hsel, hoff, he]
  · exact absurd hb hn

/-- A computation that loads an image when it is supported, by the bits of the image. -/
theorem ofEff_of_image {x : Eff State} {image : Half} {t : State} {l : List TraceRecord}
    (h : x = if unsupportedImage image then .error .unsupportedFlagBit else .ok t l) :
    (image.getLsbD 8 = false ∧ image.getLsbD 10 = false → ofEff x = .next (t.emit l)) ∧
    (image.getLsbD 8 = true ∨ image.getLsbD 10 = true → ofEff x = .refused .unsupportedFlagBit) := by
  subst h
  refine ⟨fun ⟨h8, h10⟩ => ?_, fun hset => ?_⟩
  · rw [unsupportedImage_eq_false h8 h10]
    rfl
  · rw [(unsupportedImage_eq_true_iff image).2 hset]
    rfl

/-- Settles O14: POPF by `popFlags_eq`, IRET by `State.interruptReturn_eq`. -/
theorem popfAndIretLoadTheFlags : Obligations.PopfAndIretLoadTheFlags := by
  refine ⟨fun s v hb hh => ?_, fun s off sel image hb hh => ?_⟩ <;> rw [← s.sp_eq_claims_sp] at *
  · obtain ⟨hnext, hrefused⟩ := ofEff_of_image (popFlags_eq hb hh)
    exact ⟨fun hclear => ⟨_, s.regs.write_wrote _ _ _, hnext hclear⟩, hrefused⟩
  · obtain ⟨hnext, hrefused⟩ := ofEff_of_image (State.interruptReturn_eq hb hh)
    exact ⟨fun hclear => ⟨_, s.regs.write_wrote _ _ _, hnext hclear⟩, hrefused⟩

/-! ### PUSH (R300, R302, R304, R306, R308) -/

/-- Every form of PUSH reads its source and pushes the value (R302, R304, R306, R308). -/
theorem exec_pushes {s : State} {i : Instr} {w : Width} {src : Claims.Source w} {v : BitVec w.bits}
    (h : Claims.Pushes s i w src) (hv : src.Has s v) :
    exec i s = ofEff ((s.push w v).after (src.records s)) := by
  cases h with
  | pushEs | pushCs | pushSs | pushDs | pushIbs | pushf =>
    obtain rfl := hv
    exact congrArg ofEff (Eff.after_nil _).symm
  | pushIv =>
    obtain rfl := Eq.trans hv (immBits_eq_immValue _ _)
    exact congrArg ofEff (Eff.after_nil _).symm
  | pushR =>
    obtain ⟨-, hreg⟩ := hv
    obtain rfl := (s.readReg_eq_view _ _).trans hreg
    exact congrArg ofEff (Eff.after_nil _).symm
  | pushEv =>
    obtain ⟨hb, hr⟩ := hv
    exact congrArg (fun x => ofEff (x.bind (s.push s.vWidth))) (State.readE_ok hb hr)

/-- Settles O48: every form by `exec_pushes`, its push by `State.push_ok`. -/
theorem pushStoresBelowTheStackPointer : Obligations.PushStoresBelowTheStackPointer := by
  intro s i w src v h hv hb
  rw [← s.sp_eq_claims_sp] at *
  obtain ⟨m, hpush, hstores⟩ := State.push_ok (v := v) hb
  refine ⟨_, m, ?_, s.regs.write_wrote _ _ _, hstores⟩
  rw [exec_pushes h hv, hpush]
  rfl

/-! ### POP (R301, R303, R305, R307) -/

/-- Moving SP changes no address of a memory operand, so none is lost (R305). -/
theorem State.operandBacked_setSp (s : State) (x : Half) (w : Width) (e : EOperand) :
    (s.setSp x).operandBacked w e = s.operandBacked w e := by
  cases e with
  | reg r => rfl
  | mem m =>
    simp only [State.operandBacked, s.eaOff_setSp x m]
    rfl

/-- POP of an E operand: SP moves first, then the operand is written with the value that was at SS:SP (R303, R305). -/
theorem popE_ok {s : State} {w : Width} {e : EOperand} {v : BitVec w.bits} (hb : s.segBacked s.sregs.ss s.sp w.bytes)
    (hh : s.Holds s.sregs.ss s.sp w.bytes v) (he : s.operandBacked w e = true) :
    ∃ g m, (s.setSp (s.sp + BitVec.ofNat 16 w.bytes)).Puts w e v g m ∧
      popE w e s = .ok { s with regs := g, mem := m } (s.segRecords .read s.sregs.ss s.sp w.bytes ++
        (s.setSp (s.sp + BitVec.ofNat 16 w.bytes)).operandRecords .write w e) := by
  obtain ⟨g, m, hwrite, hputs⟩ := (s.setSp (s.sp + BitVec.ofNat 16 w.bytes)).writeE_ok w e v
    ((s.operandBacked_setSp _ w e).trans he)
  refine ⟨g, m, hputs, ?_⟩
  rw [popE, State.pop_ok hb hh, Eff.ok_bind]
  exact congrArg (Eff.after _) hwrite

/-- POP of a segment register: SP moves, and the segment register gets the word that was at SS:SP (R307). -/
theorem popSreg_ok {s : State} {v : Half} (i : SReg) (hb : s.segBacked s.sregs.ss s.sp 2)
    (hh : s.Holds s.sregs.ss s.sp 2 v) :
    ofEff (popSreg i s) = .next { s with
      regs := s.regs.write .w16 .r4 (s.sp + 2)
      sregs := s.sregs.set i v
      trace := s.trace ++ s.segRecords .read s.sregs.ss s.sp 2 } := by
  rw [popSreg, State.pop_ok (w := .w16) hb hh, Eff.ok_bind, Eff.after_ok, List.append_nil]
  rfl

/-- Settles O49: the operand forms by `popE_ok`, the segment registers by `popSreg_ok`. -/
theorem popLoadsFromTheStackPointer : Obligations.PopLoadsFromTheStackPointer := by
  refine ⟨fun s i w e v hi hw hb hh he => ?_, fun s v hb hh => ?_⟩ <;> rw [← s.sp_eq_claims_sp] at *
  · subst hw
    have hexec : exec i s = ofEff (popE s.vWidth e s) := by
      obtain ⟨r, rfl, rfl⟩ | rfl := hi <;> rfl
    obtain ⟨g', m, hputs, hpop⟩ := popE_ok hb hh he
    refine ⟨_, g', m, s.regs.write_wrote _ _ _, hputs, ?_⟩
    rw [hexec, hpop]
    rfl
  · exact ⟨_, s.regs.write_wrote _ _ _, popSreg_ok .es hb hh, popSreg_ok .ss hb hh, popSreg_ok .ds hb hh⟩

/-! ### A push followed by a pop (R310) -/

/-- Writing a view with the value it has changes nothing. -/
theorem Regs.write_view_self (g : Regs) (w : Width) (i : RegNum) : g.write w i (g.view w i) = g := by
  refine Regs.Wrote.unique (g.write_wrote w i _) fun j k hk => ?_
  split
  · next hview =>
    obtain ⟨rfl, hlow, hhigh⟩ := hview
    rw [Regs.view, BitVec.getLsbD_extractLsb', Nat.add_sub_cancel' hlow, decide_eq_true (by omega), Bool.true_and]
  · rfl

/-- A pop right after a push, its records emitted: the value, and all registers as before the push (R310). -/
theorem State.pop_after_push {s : State} {w : Width} (v : BitVec w.bits)
    (hb : s.segBacked s.sregs.ss (s.sp - BitVec.ofNat 16 w.bytes) w.bytes) :
    ∃ g m l l', s.push w v = .ok { s with regs := g, mem := m } l ∧
      ∀ r, (State.emit { s with regs := g, mem := m } r).pop w = .ok (v, State.emit { s with mem := m } r) l' := by
  obtain ⟨m, hpush, hstores⟩ := State.push_ok (v := v) hb
  refine ⟨_, m, _, s.segRecords .read s.sregs.ss (s.sp - BitVec.ofNat 16 w.bytes) w.bytes, hpush, fun r => ?_⟩
  generalize ht : State.emit _ r = t
  have hsp : t.sp = s.sp - BitVec.ofNat 16 w.bytes := by
    subst ht
    exact (State.sp_eq _).trans (s.regs.view_write_same _ _ _)
  have hregs : t.regs.write .w16 .r4 (t.sp + BitVec.ofNat 16 w.bytes) = s.regs := by
    rw [hsp, BitVec.sub_add_cancel, s.sp_eq]
    subst ht
    exact Regs.write_sp_restores (s.regs.write_wrote _ _ _)
  rw [State.pop_ok (v := v) (by rw [hsp]; subst ht; exact hb) (by rw [hsp]; subst ht; exact hstores.holds), hregs, hsp]
  subst ht
  rfl

/-- POP r of the value the register already has leaves it as it was, and so all registers (R303). -/
theorem exec_popR_of_pop {t u : State} {r : RegNum} {l : List TraceRecord}
    (h : t.pop t.vWidth = .ok (u.regs.view t.vWidth r, u) l) : exec (.popR r) t = .next (u.emit l) := by
  have hsame : u.writeReg t.vWidth r (u.regs.view t.vWidth r) = u := by
    rw [State.writeReg, Regs.write_view_self]
  change ofEff ((t.pop t.vWidth).bind fun vs => vs.2.writeE t.vWidth (.reg r) vs.1) = _
  rw [h, Eff.ok_bind, State.writeE, hsame, Eff.after_ok, List.append_nil]
  rfl

/-- Settles O50: by `State.pop_after_push`; POP r then writes the register with the value it has. -/
theorem pushThenPopRestores : Obligations.PushThenPopRestores := by
  refine ⟨fun s w v hb => ?_, fun s r hb => ?_⟩ <;> rw [← s.sp_eq_claims_sp] at *
  · obtain ⟨g, m, l, l', hpush, hpop⟩ := State.pop_after_push v hb
    have hpop := hpop []
    rw [State.emit_nil, State.emit_nil] at hpop
    exact ⟨_, _, l, l', hpush, hpop, rfl, rfl⟩
  · obtain ⟨g, m, l, l', hpush, hpop⟩ := State.pop_after_push (s.regs.view s.vWidth r) hb
    have hexec := exec_pushes (.pushR r) (v := s.regs.view s.vWidth r) ⟨rfl, rfl⟩
    rw [hpush] at hexec
    exact ⟨_, _, hexec, exec_popR_of_pop (u := State.emit { s with mem := m } l) (hpop l), rfl⟩

end Sys2Proof.Machine

namespace Sys2Proof.Machine

/-! ## Control transfer (R330 to R381) -/

/-- SP is what was written to it last (R24). -/
theorem State.sp_of_wrote {g : Regs} {t : State} {x : Half} (h : g.Wrote .w16 .r4 x t.regs) : t.sp = x := by
  rw [t.sp_eq, h.unique (g.write_wrote _ _ _), Regs.view_write_same]

/-! ### Software interrupts, and the return from an entry (R370 to R373, R520 to R522) -/

/-- The entry sequence where memory backs its bytes, as the statements describe it (R520, R521). -/
theorem State.interrupt_enters {s : State} {v : Byte} (ret : Half) (h : Claims.EntryBacked s v) :
    ∃ t, ofEff (s.interrupt v ret) = .next t ∧ Claims.Enters s v ret t := by
  rw [Claims.EntryBacked, ← s.sp_eq_claims_sp] at h
  rcases s.interrupt_cases v ret with ⟨-, -, m, hentry, hstores, -⟩ | ⟨hn, -⟩
  · rw [hentry]
    exact ⟨_, rfl, _, m, rfl, by rw [← s.sp_eq_claims_sp]; exact ⟨s.regs.write_wrote _ _ _, hstores⟩⟩
  · exact absurd h hn

/-- Settles O13: INT3, INT Ib and the taken INTO are the entry sequence of `State.interrupt_enters`. -/
theorem softwareInterruptsEnterTheirVector : Obligations.SoftwareInterruptsEnterTheirVector := by
  refine ⟨fun s h => State.interrupt_enters s.ip h, fun s v h => State.interrupt_enters s.ip h, fun s ho h => ?_,
    fun s ho => if_neg (Bool.eq_false_iff.1 ho)⟩
  obtain ⟨t, hnext, henters⟩ := State.interrupt_enters s.ip h
  exact ⟨t, (if_pos ho).trans hnext, henters⟩

/-- Settles O15: the three words that the entry stored are popped; the flag image is one that IRET loads. -/
theorem iretUndoesTheEntry : Obligations.IretUndoesTheEntry := by
  rintro s t v ret ⟨hbacked, -⟩ ⟨g, m, ht, hg, hm⟩
  have hsp : t.sp = Claims.sp s - 6 := State.sp_of_wrote (g := s.regs) (by subst ht; exact hg)
  have hiret := State.interruptReturn_eq (s := t) (by rw [hsp]; subst ht; exact hbacked)
    (by rw [hsp]; subst ht; exact hm.holds)
  rw [unsupportedImage_flagsImage, if_neg Bool.false_ne_true, hsp, BitVec.sub_add_cancel] at hiret
  refine ⟨_, congrArg ofEff hiret, ?_, ?_, flagsOfImage_flagsImage s.flags, rfl⟩ <;> subst ht
  · exact Regs.write_sp_restores hg
  · rfl

/-! ### Jumps (R330 to R333, R359) -/

/-- A near jump changes ip and nothing else (R332). -/
theorem jumpNear_ok (s : State) (t : Half) (l : List TraceRecord) :
    ofEff (jumpNear (.ok t l) s) = .next { s with ip := t, trace := s.trace ++ l } := by
  rw [jumpNear, Eff.ok_bind, Eff.after_ok, List.append_nil]
  rfl

/-- A far jump changes CS:ip and nothing else (R359). -/
theorem jumpFar_ok (s : State) (off sel : Half) (l : List TraceRecord) :
    ofEff (jumpFar (.ok (off, sel) l) s) =
      .next { s with ip := off, sregs := { s.sregs with cs := sel }, trace := s.trace ++ l } := by
  rw [jumpFar, Eff.ok_bind, Eff.after_ok, List.append_nil]
  rfl

/-- A far pointer in memory: offset low, selector high (R108). -/
theorem State.readFarPointer_ok {s : State} {m : MemOperand} {off sel : Half}
    (hb : s.segBacked (s.eaSeg m) (s.eaOff m) 4) (hh : s.Holds (s.eaSeg m) (s.eaOff m) 4 (sel ++ off)) :
    s.readFarPointer m = .ok (off, sel) (s.segRecords .read (s.eaSeg m) (s.eaOff m) 4) := by
  rcases s.readFarPointer_cases m with ⟨-, off', sel', hread, hh'⟩ | ⟨hn, -⟩
  · obtain ⟨rfl, rfl⟩ := append_inj (State.Holds.unique_of_bytes rfl hh hh')
    exact hread
  · exact absurd hb hn

/-- Settles O51: each form is a jump to a target that is known, was read, or stands in the instruction. -/
theorem jmpTransfersToItsTarget : Obligations.JmpTransfersToItsTarget := by
  refine ⟨fun s rel => congrArg (Host.Outcome.next ∘ s.setIp) (s.relTarget8_eq rel),
    fun s rel => congrArg (Host.Outcome.next ∘ s.setIp) (s.relTarget_eq rel), fun s e v hb hv => ?_,
    fun s off sel => rfl, fun s m off sel hb hh => ?_⟩
  · exact (congrArg (fun x => ofEff (jumpNear x s)) (State.readE_ok hb hv)).trans (jumpNear_ok s v _)
  · exact (congrArg (fun x => ofEff (jumpFar x s)) (State.readFarPointer_ok hb hh)).trans (jumpFar_ok s off sel _)

/-! ### Conditional jumps and loops (R334 to R353) -/

/-- Settles O52: by the condition of `exec_conditional_cond`. -/
theorem conditionalJumpsFollowTheirCondition : Obligations.ConditionalJumpsFollowTheirCondition := by
  intro s i taken rel h
  obtain ⟨c, hexec, hc⟩ := exec_conditional_cond h
  rw [hexec, jumpIf_eq, ← hc]
  exact ⟨fun ht => by rw [if_pos ht], fun hn => by rw [if_neg hn]⟩

/-- A loop instruction decrements CX and jumps while it is not 0 and the condition holds (R351 to R353). -/
theorem loopWhile_eq (b : Bool) (rel : Byte) (s : State) :
    loopWhile b rel s = { s with
      regs := s.regs.write .w16 .r1 (s.regs.view .w16 .r1 - 1)
      ip := if s.regs.view .w16 .r1 - 1 ≠ 0 ∧ b = true then Claims.target s rel else s.ip } := by
  rw [loopWhile, jumpIf_eq, s.readReg_eq_view]
  simp only [Bool.and_eq_true, bne_iff_ne]
  rfl

/-- Each loop instruction and its condition (R351 to R353). -/
theorem exec_loops {s : State} {i : Instr} {cond : Prop} {rel : Byte}
    (h : i = .loop rel ∧ (cond ↔ True) ∨ i = .loope rel ∧ (cond ↔ s.flags.zf = true) ∨
      i = .loopne rel ∧ (cond ↔ s.flags.zf = false)) :
    ∃ b, exec i s = .next (loopWhile b rel s) ∧ (b = true ↔ cond) := by
  obtain ⟨rfl, hcond⟩ | ⟨rfl, hcond⟩ | ⟨rfl, hcond⟩ := h
  · exact ⟨true, rfl, (iff_true_intro rfl).trans hcond.symm⟩
  · exact ⟨s.flags.zf, rfl, hcond.symm⟩
  · exact ⟨!s.flags.zf, rfl, (iff_of_eq (Bool.not_eq_true' _)).trans hcond.symm⟩

/-- Settles O53: JCXZ by `jumpIf_eq`, the loop instructions by `loopWhile_eq`. -/
theorem countRegisterJumps : Obligations.CountRegisterJumps := by
  refine ⟨fun s rel => ?_, fun s i cond rel cx h hcx => ?_⟩
  · change Host.Outcome.next (jumpIf (s.readReg .w16 .r1 == 0) rel s) = _
    simp only [jumpIf_eq, s.readReg_eq_view, beq_iff_eq]
  · subst hcx
    obtain ⟨b, hexec, hb⟩ := exec_loops h
    rw [hexec, loopWhile_eq, ← hb]
    exact ⟨_, s.regs.write_wrote _ _ _, fun ht => by rw [if_pos ht], fun hn => by rw [if_neg hn]⟩

/-! ### CALL (R355 to R358) -/

/-- A near call to a target that was read (R355, R356). -/
theorem callNear_ok {s : State} (t : Half) (l : List TraceRecord) (hb : s.segBacked s.sregs.ss (s.sp - 2) 2) :
    ∃ m, s.Stores s.sregs.ss (s.sp - 2) 2 s.ip m ∧ ofEff (callNear (.ok t l) s) = .next { s with
      regs := s.regs.write .w16 .r4 (s.sp - 2)
      mem := m
      ip := t
      trace := s.trace ++ (l ++ s.segRecords .write s.sregs.ss (s.sp - 2) 2) } := by
  obtain ⟨m, hpush, hstores⟩ := State.push_ok (w := .w16) (v := s.ip) hb
  refine ⟨m, hstores, ?_⟩
  rw [callNear, Eff.ok_bind, hpush, Eff.ok_bind, Eff.after_ok, List.append_nil]
  rfl

/-- Two pushes of a word leave the two words as one value at the new SP (R300). -/
theorem State.pushTwo_ok {s : State} (hi lo : Half) (hb : s.segBacked s.sregs.ss (s.sp - 4) 4) :
    ∃ m m', s.Stores s.sregs.ss (s.sp - 4) 4 (hi ++ lo) m' ∧
      s.push .w16 hi = .ok { s with regs := s.regs.write .w16 .r4 (s.sp - 2), mem := m }
        (s.segRecords .write s.sregs.ss (s.sp - 2) 2) ∧
      ({ s with regs := s.regs.write .w16 .r4 (s.sp - 2), mem := m } : State).push .w16 lo =
        .ok { s with regs := s.regs.write .w16 .r4 (s.sp - 4), mem := m' }
          (s.segRecords .write s.sregs.ss (s.sp - 4) 2) := by
  have hfour : s.sp - 2 = s.sp - 4 + BitVec.ofNat 16 2 := by bv_omega
  obtain ⟨hlo, hhi⟩ := (s.segBacked_split _ _ 2 2).1 hb
  rw [← hfour] at hhi
  obtain ⟨m, hpush, hstores⟩ := State.push_ok (w := .w16) (v := hi) hhi
  generalize ht : ({ s with regs := s.regs.write .w16 .r4 (s.sp - 2), mem := m } : State) = t
  have hsp : t.sp - BitVec.ofNat 16 Width.w16.bytes = s.sp - 4 := by
    rw [State.sp_of_wrote (g := s.regs) (x := s.sp - 2) (by subst ht; exact s.regs.write_wrote _ _ _)]
    change s.sp - 2 - 2 = s.sp - 4
    bv_omega
  obtain ⟨m', hpush', hstores'⟩ := State.push_ok (s := t) (w := .w16) (v := lo) (by rw [hsp]; subst ht; exact hlo)
  rw [hsp] at hpush' hstores'
  subst ht
  rw [Regs.write_sp_sp] at hpush'
  exact ⟨m, m', State.Stores.append (by decide) rfl (hfour ▸ hstores) hstores', hpush, hpush'⟩

/-- A far call to a pointer that was read: CS above the offset behind the call (R357, R358). -/
theorem callFar_ok {s : State} (off sel : Half) (l : List TraceRecord) (hb : s.segBacked s.sregs.ss (s.sp - 4) 4) :
    ∃ m, s.Stores s.sregs.ss (s.sp - 4) 4 (s.sregs.cs ++ s.ip) m ∧
      ofEff (callFar (.ok (off, sel) l) s) = .next { s with
        regs := s.regs.write .w16 .r4 (s.sp - 4)
        mem := m
        ip := off
        sregs := { s.sregs with cs := sel }
        trace := s.trace ++ (l ++ (s.segRecords .write s.sregs.ss (s.sp - 2) 2 ++
          s.segRecords .write s.sregs.ss (s.sp - 4) 2)) } := by
  obtain ⟨m, m', hstores, hpush, hpush'⟩ := State.pushTwo_ok s.sregs.cs s.ip hb
  refine ⟨m', hstores, ?_⟩
  rw [callFar, Eff.ok_bind, show s.sreg .cs = s.sregs.cs from rfl, hpush, Eff.ok_bind, hpush', Eff.ok_bind,
    Eff.after_ok, List.append_nil]
  rfl

/-- Settles O54: near calls by `callNear_ok`, far calls by `callFar_ok`. -/
theorem callPushesTheReturnAddress : Obligations.CallPushesTheReturnAddress := by
  refine ⟨fun s i t l hb h => ?_, fun s i off sel l hb h => ?_⟩ <;> rw [← s.sp_eq_claims_sp] at *
  · have hexec : exec i s = ofEff (callNear (.ok t l) s) := by
      obtain ⟨rel, rfl, rfl, rfl⟩ | ⟨e, rfl, he, ht, rfl⟩ := h
      · exact congrArg (fun t => ofEff (callNear (.ok t []) s)) (s.relTarget_eq rel)
      · exact congrArg (fun x => ofEff (callNear x s)) (State.readE_ok he ht)
    obtain ⟨m, hstores, hcall⟩ := callNear_ok t l hb
    exact ⟨_, m, hexec.trans hcall, s.regs.write_wrote _ _ _, hstores⟩
  · have hexec : exec i s = ofEff (callFar (.ok (off, sel) l) s) := by
      obtain ⟨rfl, rfl⟩ | ⟨o, rfl, ho, hh, rfl⟩ := h
      · rfl
      · exact congrArg (fun x => ofEff (callFar x s)) (State.readFarPointer_ok ho hh)
    obtain ⟨m, hstores, hcall⟩ := callFar_ok off sel l hb
    exact ⟨_, m, hexec.trans hcall, s.regs.write_wrote _ _ _, hstores⟩

/-! ### RET and RETF (R360 to R363) -/

/-- A near return: ip from the stack, SP above it and the bytes released (R360, R361). -/
theorem retNear_ok {s : State} {off : Half} (n : Half) (hb : s.segBacked s.sregs.ss s.sp 2)
    (hh : s.Holds s.sregs.ss s.sp 2 off) : ofEff (retNear n s) = .next { s with
      regs := s.regs.write .w16 .r4 (s.sp + 2 + n)
      ip := off
      trace := s.trace ++ s.segRecords .read s.sregs.ss s.sp 2 } := by
  generalize ht : ({ s with regs := s.regs.write .w16 .r4 (s.sp + 2) } : State) = t
  have hpop : s.pop .w16 = .ok (off, t) (s.segRecords .read s.sregs.ss s.sp 2) := by
    subst ht
    exact State.pop_ok hb hh
  have hsp : t.sp = s.sp + 2 := State.sp_of_wrote (by subst ht; exact s.regs.write_wrote _ _ _)
  rw [retNear, hpop, Eff.ok_bind, Eff.after_ok, List.append_nil, hsp,
    ← Regs.write_sp_sp s.regs (s.sp + 2) (s.sp + 2 + n)]
  subst ht
  rfl

/-- A far return: ip and CS from the stack, SP above them and the bytes released (R362, R363). -/
theorem retFar_ok {s : State} {off sel : Half} (n : Half) (hb : s.segBacked s.sregs.ss s.sp 4)
    (hh : s.Holds s.sregs.ss s.sp 4 (sel ++ off)) : ofEff (retFar n s) = .next { s with
      regs := s.regs.write .w16 .r4 (s.sp + 4 + n)
      ip := off
      sregs := { s.sregs with cs := sel }
      trace := s.trace ++ s.segRecords .read s.sregs.ss s.sp 4 } := by
  rcases s.popTwo_cases with ⟨-, off', sel', hpop, hpop', hh'⟩ | ⟨hn, -⟩
  · obtain ⟨rfl, rfl⟩ := append_inj (State.Holds.unique_of_bytes rfl hh hh')
    generalize ht : ({ s with regs := s.regs.write .w16 .r4 (s.sp + 4) } : State) = t at hpop'
    have hsp : t.sp = s.sp + 4 := State.sp_of_wrote (by subst ht; exact s.regs.write_wrote _ _ _)
    rw [retFar, hpop, Eff.ok_bind, hpop', Eff.ok_bind, Eff.after_ok, Eff.after_ok, List.append_nil,
      show s.sp + 2 = s.sp + BitVec.ofNat 16 2 from rfl, s.segRecords_append, hsp,
      ← Regs.write_sp_sp s.regs (s.sp + 4) (s.sp + 4 + n)]
    subst ht
    rfl
  · exact absurd hb hn

/-- Settles O55: near returns by `retNear_ok`, far returns by `retFar_ok`. -/
theorem retPopsTheReturnAddress : Obligations.RetPopsTheReturnAddress := by
  refine ⟨fun s i n off h hb hh => ?_, fun s i n off sel h hb hh => ?_⟩ <;> rw [← s.sp_eq_claims_sp] at *
  · have hexec : exec i s = ofEff (retNear n s) := by
      obtain ⟨rfl, rfl⟩ | rfl := h <;> rfl
    exact ⟨_, hexec.trans (retNear_ok n hb hh), s.regs.write_wrote _ _ _⟩
  · have hexec : exec i s = ofEff (retFar n s) := by
      obtain ⟨rfl, rfl⟩ | rfl := h <;> rfl
    exact ⟨_, hexec.trans (retFar_ok n hb hh), s.regs.write_wrote _ _ _⟩

end Sys2Proof.Machine

namespace Sys2Proof.Machine

/-! ## Ports and devices (R400 to R426) -/

/-! ### The binding pass (R421, R556, R602) -/

/-- The control ports a disk channel registers (R556). -/
theorem mem_controlOwn (ports : DiskPorts) (p : Half) :
    p ∈ ports.controlOwn ↔ ∃ c, ports.control = some c ∧ p ∈ c ∧ p ∉ ports.shared := by
  unfold DiskPorts.controlOwn
  cases ports.control with
  | none => simp
  | some c => simp

/-- Settles O5: the owner of a port follows each device's `reset()` as `State.ownerOf_deviceReset` says, and so the whole
pass. -/
theorem lastRegistrationOwnsThePort : Obligations.LastRegistrationOwnsThePort := by
  refine ⟨fun s p => (List.foldl_hom (State.ownerOf · p) fun t x => (State.ownerOf_deviceReset t x p).symm).symm,
    fun k0 k1 ports p => ⟨rfl, ?_⟩⟩
  exact List.mem_append.trans (or_congr_right (mem_controlOwn ports p))

/-! ### The reply of a device handler (R412) -/

theorem State.nextReply_of_cons {s : State} {r : DeviceReply} {rest : List DeviceReply} (h : s.replies = r :: rest) :
    s.nextReply = ({ s with replies := rest }, r) := by
  unfold State.nextReply
  rw [h]

theorem State.nextReply_of_nil {s : State} (h : s.replies = []) :
    s.nextReply = ({ s with portCalls := s.portCalls + 1 }, .answer (Config.deviceAnswer s.portCalls) []) := by
  unfold State.nextReply
  rw [h]

/-! ### IN (R400, R401, R410, R413, R416, R426) -/

/-- All ones, as the accumulator gets them (R413). -/
theorem sentinel_setWidth (w : Width) : (sentinel w.bytes).setWidth w.bits = BitVec.allOnes w.bits := by
  cases w <;> rfl

/-- An answer reduced to the access width, as the accumulator gets it (R410). -/
theorem truncBytes_setWidth (w : Width) (v : Word) :
    (truncBytes w.bytes v).setWidth w.bits = BitVec.ofNat w.bits v.toNat := by
  rw [truncBytes, BitVec.setWidth_and, sentinel_setWidth, BitVec.and_allOnes, ← BitVec.ofNat_toNat]

section
variable {s t : State} {d : DeviceId} {p : Half} {n : Nat}

theorem State.portRead_unowned (ho : s.ownerOf p = none) :
    s.portRead p n = (s.log (.unmappedRead p n), sentinel n) := by
  rw [State.portRead, ho]

theorem State.portRead_owned (ho : s.ownerOf p = some d) : s.portRead p n = s.deviceRead d p n := by
  rw [State.portRead, ho]

theorem State.deviceRead_unaddressed (hu : s.stubUnaddressed d p = true) :
    s.deviceRead d p n = (s.log (.deviceRead d p n), sentinel n) :=
  if_pos hu

/-- A read that the handler answers: its value and its actions (R410, R412). -/
theorem State.deviceRead_answer {v : Word} {as : List DeviceAction} (hu : s.stubUnaddressed d p = false)
    (hr : (s.log (.deviceRead d p n)).nextReply = (t, .answer v as)) :
    s.deviceRead d p n = (t.deviceActions d n as, truncBytes n v) := by
  refine (if_neg (Bool.eq_false_iff.1 hu)).trans ?_
  rw [hr]

/-- A read that the device does not implement (R416). -/
theorem State.deviceRead_unimplemented (hu : s.stubUnaddressed d p = false)
    (hr : (s.log (.deviceRead d p n)).nextReply = (t, .unimplemented)) :
    s.deviceRead d p n = (t.log (.portAccessFault d p n), sentinel n) := by
  refine (if_neg (Bool.eq_false_iff.1 hu)).trans ?_
  rw [hr]

end

/-- Every form of IN is one port read into the accumulator (R400, R401). -/
theorem exec_readsPort {s : State} {i : Instr} {w : Width} {p : Half} (h : Claims.ReadsPort s i w p) :
    exec i s = .next (portIn w p s) := by
  cases h with
  | inAlIb | inEaxIb => rw [BitVec.ofNat_toNat]; rfl
  | inAlDx | inEaxDx => rw [← s.readReg_eq_view]; rfl

/-- IN by what the port read gives: a port read keeps the registers, so the accumulator is written over the old ones. -/
theorem exec_readsPort_of_portRead {s u : State} {i : Instr} {w : Width} {p : Half} {x : Word} {v : BitVec w.bits}
    (h : Claims.ReadsPort s i w p) (hr : s.portRead p w.bytes = (u, x)) (hv : x.setWidth w.bits = v) :
    ∃ g, s.regs.Wrote w .r0 v g ∧ exec i s = .next { u with regs := g } := by
  have hregs : u.regs = s.regs := by
    have hframe := (s.deviceFrame_portRead p w.bytes).fields.regs
    rwa [hr] at hframe
  refine ⟨_, s.regs.write_wrote w .r0 v, ?_⟩
  rw [exec_readsPort h, portIn, hr, hv, ← hregs]
  rfl

/-- Settles O56: each outcome of IN by its port read; the device's part by `State.actionFrame_deviceActions`. -/
theorem inReadsTheOwningDevice : Obligations.InReadsTheOwningDevice := by
  refine ⟨fun s i w p h => ⟨fun ho => ?_, fun d ho => ⟨fun hu => ?_, fun hu => ⟨fun v as rest hq => ?_, fun rest hq => ?_,
    fun hq => ?_⟩⟩⟩, fun s d n as => s.actionFrame_deviceActions d n as, fun s d as => rfl⟩
  · exact exec_readsPort_of_portRead h (State.portRead_unowned ho) (sentinel_setWidth w)
  · exact exec_readsPort_of_portRead h ((State.portRead_owned ho).trans (State.deviceRead_unaddressed hu))
      (sentinel_setWidth w)
  · obtain ⟨g, hg, hexec⟩ := exec_readsPort_of_portRead h
      ((State.portRead_owned ho).trans (State.deviceRead_answer hu (State.nextReply_of_cons hq))) (truncBytes_setWidth w v)
    exact ⟨g, _, hg, rfl, hexec⟩
  · exact exec_readsPort_of_portRead h
      ((State.portRead_owned ho).trans (State.deviceRead_unimplemented hu (State.nextReply_of_cons hq)))
      (sentinel_setWidth w)
  · exact ⟨_, exec_readsPort_of_portRead h
      ((State.portRead_owned ho).trans (State.deviceRead_answer hu (State.nextReply_of_nil hq))) rfl⟩

/-! ### OUT (R402, R403, R411, R414, R416, R422) -/

section
variable {s t : State} {d : DeviceId} {p : Half} {n : Nat} {v : Word}

theorem State.portWrite_unowned (ho : s.ownerOf p = none) :
    s.portWrite p n v = s.log (.unmappedWrite p n v) := by
  rw [State.portWrite, ho]

theorem State.portWrite_owned (ho : s.ownerOf p = some d) : s.portWrite p n v = s.deviceWrite d p n v := by
  rw [State.portWrite, ho]

/-- A write that the handler implements: an address write is remembered, then the handler's actions (R412, R426). -/
theorem State.deviceWrite_answer {x : Word} {as : List DeviceAction}
    (hr : (s.log (.deviceWrite d p n v)).nextReply = (t, .answer x as)) :
    s.deviceWrite d p n v = (t.noteAddressWrite d p).deviceActions d n as := by
  rw [State.deviceWrite, hr]

/-- A write that the device does not implement (R416, R422). -/
theorem State.deviceWrite_unimplemented (hr : (s.log (.deviceWrite d p n v)).nextReply = (t, .unimplemented)) :
    s.deviceWrite d p n v = t.log (.portAccessFault d p n) := by
  rw [State.deviceWrite, hr]

end

/-- Every form of OUT is one port write of the accumulator (R402, R403). -/
theorem exec_writesPort {s : State} {i : Instr} {w : Width} {p : Half} (h : Claims.WritesPort s i w p) :
    exec i s = .next (s.portWrite p w.bytes (BitVec.ofNat 32 (s.regs.view w .r0).toNat)) := by
  rw [BitVec.ofNat_toNat, ← s.readReg_eq_view]
  cases h with
  | outIbAl | outIbEax => rw [BitVec.ofNat_toNat]; rfl
  | outDxAl | outDxEax => rw [← s.readReg_eq_view]; rfl

/-- What an address write changes: at most the memory of the stub itself, which then holds that one came (R426). -/
theorem State.noteAddressWrite_cases (s : State) (d : DeviceId) (p : Half) :
    s.noteAddressWrite d p = s ∨
      s.noteAddressWrite d p = { s with devices := Assoc.put d (.stub true) s.devices } := by
  unfold State.noteAddressWrite
  split
  · split
    · exact .inr rfl
    · exact .inl rfl
  · exact .inl rfl

/-- A write at an address port of the stub is remembered (R426). -/
theorem State.noteAddressWrite_of_addressPort {s : State} {d : DeviceId} {p : Half} {x : DeviceSpec} {ap dp : List Half}
    {b : Binding} {k : Bool} (hx : s.deviceSpec d = some x) (hk : x.kind = .configStub ap dp b) (hp : p ∈ ap)
    (hd : Assoc.find d s.devices = some (.stub k)) :
    s.noteAddressWrite d p = { s with devices := Assoc.put d (.stub true) s.devices } := by
  obtain ⟨id, kind, prefs⟩ := x
  subst hk
  unfold State.noteAddressWrite
  rw [hx, hd]
  exact if_pos (List.contains_iff_mem.2 hp)

theorem State.find_noteAddressWrite_of_ne (s : State) {d d' : DeviceId} (p : Half) (h : d' ≠ d) :
    Assoc.find d' (s.noteAddressWrite d p).devices = Assoc.find d' s.devices := by
  rcases s.noteAddressWrite_cases d p with he | he
  · rw [he]
  · rw [he, Assoc.find_put, if_neg h]

/-- Settles O57: each outcome of OUT by its port write; the stub's memory by `State.noteAddressWrite_cases`. -/
theorem outWritesTheOwningDevice : Obligations.OutWritesTheOwningDevice := by
  refine ⟨fun s i w p v h hv => ?_, fun s d p => ⟨(s.noteAddressWrite d p).devices, ?_,
    fun d' hd => s.find_noteAddressWrite_of_ne p hd, fun hne => ?_, fun x ap dp b k hx hk hp hd => ?_⟩⟩
  · rw [exec_writesPort h, ← hv]
    refine ⟨fun ho => congrArg _ (State.portWrite_unowned ho), fun d ho => ?_⟩
    rw [State.portWrite_owned ho]
    exact ⟨fun x as rest hq => congrArg _ (State.deviceWrite_answer (State.nextReply_of_cons hq)),
      fun rest hq => congrArg _ (State.deviceWrite_unimplemented (State.nextReply_of_cons hq)),
      fun hq => congrArg _ (State.deviceWrite_answer (State.nextReply_of_nil hq))⟩
  · rcases s.noteAddressWrite_cases d p with he | he <;> rw [he]
  · rcases s.noteAddressWrite_cases d p with he | he
    · exact absurd (congrArg State.devices he) hne
    · rw [he, Assoc.find_put, if_pos rfl]
  · rw [State.noteAddressWrite_of_addressPort hx hk hp hd, Assoc.find_put, if_pos rfl]

end Sys2Proof.Machine

namespace Sys2Proof.Machine

/-! ## Flag control, HLT, NOP and the prefix bytes (R104, R168, R450 to R457) -/

/-- Settles O58: the flag instructions, HLT and NOP are one state update each, a prefix byte the one of `exec_pfx`. -/
theorem flagControlHltNopAndPrefixBytes : Obligations.FlagControlHltNopAndPrefixBytes := by
  intro s
  refine ⟨?clc, ?stc, ?cmc, ?cli, ?sti, ?hlt, ?nop, exec_pfx .opsize s, exec_pfx (.seg .es) s, exec_pfx (.seg .cs) s,
    exec_pfx (.seg .ss) s, exec_pfx (.seg .ds) s⟩
  case clc | stc | cmc | cli | sti => rfl
  case hlt | nop => rfl

end Sys2Proof.Machine

namespace Sys2Proof.Machine

/-! ## Exceptions and line interrupts (R500 to R521) -/

/-! ### The DecodeFault (R510, R511) -/

/-- A step at bytes that raise a DecodeFault: it is raised at the start of the decode, with the bytes fetched so far, and
bytes after those do not change it (R103, R510). -/
theorem step_decodeFault {s : State} {ps : List Pfx} {body : List Byte} {info : DecodeInfo} {n : Nat} (hi : s.noInput)
    (hx : s.executes) (hcode : s.CodeAt (ps.map Pfx.byte ++ body))
    (hlen : ps.length + body.length ≤ s.params.maxInsnLen) (hdec : decodeUnit (pfxOpsize ps) body = .fault info n) :
    step s = s.startDecode.decodeFault ((ps.map Pfx.byte ++ body).take (ps.length + n)) info := by
  obtain ⟨more, hw⟩ := State.fetchWindow_of_CodeAt hcode (by simpa using hlen)
  rw [List.append_assoc] at hw
  have hfault : decodeUnit (s.startDecode.latchAll ps).opsizePfx (body ++ more) = .fault info n := by
    rw [s.latchAll_startDecode_opsizePfx, decodeUnit_append (by rw [hdec]; exact nofun), hdec]
  have hn : n ≤ body.length := decodeUnit_length.1 info n hdec
  have hfetched : (ps.map Pfx.byte ++ (body ++ more)).length - (body ++ more).length + n = ps.length + n := by
    rw [List.length_append, List.length_map, Nat.add_sub_cancel]
  rw [step_of_fetchWindow hi hx hw, runUnits_fault hfault, hfetched, ← List.append_assoc,
    List.take_append_of_le_length (by rw [List.length_append, List.length_map]; omega)]

theorem State.decodeFault_of_halt {s : State} (bytes : List Byte) (info : DecodeInfo) (h : s.params.policy = .halt) :
    s.decodeFault bytes info = .fault (.decodeFault s.sregs.cs s.ip bytes info) := by
  unfold State.decodeFault
  rw [h]
  rfl

theorem State.decodeFault_of_vector6 {s : State} (bytes : List Byte) (info : DecodeInfo)
    (h : s.params.policy = .vector6) :
    s.decodeFault bytes info =
      ofEff (((s.emit (s.segRecords .read s.sregs.cs s.ip bytes.length)).log
        (.decodeFault s.sregs.cs s.ip bytes info)).interrupt 6 s.ip) := by
  unfold State.decodeFault
  rw [h, ← s.fetchRecords_eq]
  rfl

/-- Settles O11: by `step_decodeFault`, and what each policy makes of the DecodeFault. -/
theorem decodeFaultIsSurfaced : Obligations.DecodeFaultIsSurfaced := by
  intro s ps body info n bytes hi hx hcode hlen hdec hbytes
  rw [step_decodeFault hi hx hcode hlen hdec, ← hbytes]
  refine ⟨fun hpolicy => State.decodeFault_of_halt bytes info hpolicy, fun hpolicy hbacked => ?_⟩
  rw [State.decodeFault_of_vector6 (s := s.startDecode) bytes info hpolicy]
  exact State.interrupt_enters s.ip hbacked

/-! ### The boundary check (R500, R501, R534 to R536) -/

theorem cycle_of_deliverable {s : State} {n : Nat} (h : s.deliverable = some n) :
    cycle s = ofEff (s.interrupt (s.vectorOfLine n) s.ip) := by
  unfold cycle
  rw [h]

theorem cycle_of_idle {s : State} (h : s.deliverable = none) (hh : s.halted = true) : cycle s = .next s := by
  unfold cycle
  rw [h]
  exact if_pos hh

/-- With IF = 1 the lowest-numbered pending line is the one to take (R500, R501). -/
theorem State.deliverable_eq_some {s : State} {n : Nat} (hif : s.flags.ifl = true) (hn : n ∈ s.pending)
    (hmin : ∀ m ∈ s.pending, n ≤ m) : s.deliverable = some n :=
  (if_pos hif).trans (List.min?_eq_some_iff.2 ⟨hn, hmin⟩)

theorem State.deliverable_eq_none {s : State} (h : s.flags.ifl = false ∨ s.pending = []) : s.deliverable = none := by
  unfold State.deliverable
  obtain hif | hp := h
  · rw [hif]; rfl
  · rw [hp]; exact ite_self _

/-- The vector of a line: that of the table, or the default one (R535). -/
theorem State.vectorOfLine_eq {s : State} {n : Nat} {v : Byte}
    (h : Assoc.find n s.params.vectorTable = some v ∨ Assoc.find n s.params.vectorTable = none ∧ v = defaultVector n) :
    s.vectorOfLine n = v := by
  unfold State.vectorOfLine
  obtain ht | ⟨ht, rfl⟩ := h <;> rw [ht] <;> rfl

theorem pending_of_enters {s t : State} {v : Byte} {ret : Half} (h : Claims.Enters s v ret t) :
    t.pending = s.pending := by
  obtain ⟨g, m, rfl, -⟩ := h
  rfl

/-- Settles O12: the line that `State.deliverable` names is entered; without one a halted cycle is idle. -/
theorem pendingLineIsTakenFirst : Obligations.PendingLineIsTakenFirst := by
  refine ⟨fun s n hi hif hn hmin v hv hbacked => ?_, fun s hi hh hnone => ?_⟩
  · rw [step_of_noInput hi, cycle_of_deliverable (State.deliverable_eq_some hif hn hmin), State.vectorOfLine_eq hv]
    obtain ⟨t, hnext, henters⟩ := State.interrupt_enters s.ip hbacked
    exact ⟨t, hnext, henters, pending_of_enters henters⟩
  · rw [step_of_noInput hi, cycle_of_idle (State.deliverable_eq_none hnone) hh]

/-! ### The divide error (R232, R233, R512) -/

/-- The entry sequence after other accesses of the same instruction: their records come first (R520, R570). -/
theorem State.interrupt_after_enters {s : State} {v : Byte} (ret : Half) (l : List TraceRecord)
    (h : Claims.EntryBacked s v) :
    ∃ t, ofEff ((s.interrupt v ret).after l) = .next t ∧ Claims.Enters (s.emit l) v ret t := by
  rw [Claims.EntryBacked, ← s.sp_eq_claims_sp] at h
  rcases s.interrupt_cases v ret with ⟨-, -, m, hentry, hstores, -⟩ | ⟨hn, -⟩
  · rw [hentry]
    refine ⟨_, rfl, _, m, ?_, by rw [← State.sp_eq_claims_sp]; exact ⟨s.regs.write_wrote _ _ _, hstores⟩⟩
    simp only [State.emit, List.append_assoc]
    rfl
  · exact absurd h hn

theorem divideEnd_enters {s : State} {w : Width} {op : UndefOp} {d q r : BitVec w.bits} {error : Prop}
    [Decidable error] (l : List TraceRecord) (he : error) (h : Claims.EntryBacked s 0) :
    ∃ t, ofEff ((divideEnd op w d error q r s).after l) = .next t ∧ Claims.Enters (s.emit l) 0 s.ipStart t := by
  rw [divideEnd, if_pos he]
  exact State.interrupt_after_enters s.ipStart l h

/-- A quotient that rounds toward zero is out of range when every quotient of R206 is (R233). -/
theorem tdiv_out_of_range {n d lo hi : Int} (hd : d ≠ 0)
    (h : ∀ q r : Int, n = q * d + r → |r| < |d| → (r = 0 ∨ (0 < r ↔ 0 < n)) → q < lo ∨ hi ≤ q) :
    hi ≤ n.tdiv d ∨ n.tdiv d < lo :=
  have hr := tmod_bounds n d hd
  (h (n.tdiv d) (n.tmod d) (Int.tdiv_mul_add_tmod n d).symm hr.1 hr.2).symm

/-- Settles O43: each case of the statement is the error case of `divE_eq` or `idivE_eq`. -/
theorem divideErrorEntersVectorZero : Obligations.DivideErrorEntersVectorZero := by
  intro s i sg w e d h hbacked hd hentry herror
  rw [exec_divides h]
  cases sg with
  | false =>
    simp only [Bool.false_eq_true, if_false, divE_eq hbacked hd rfl]
    refine divideEnd_enters _ ?_ hentry
    obtain h0 | ⟨-, hq⟩ | ⟨hsg, -⟩ := herror
    · exact .inl h0
    · exact .inr hq
    · cases hsg
  | true =>
    simp only [if_true, idivE_eq hbacked hd rfl]
    refine divideEnd_enters _ ?_ hentry
    by_cases h0 : d = 0
    · exact .inl h0
    obtain h0' | ⟨hsg, -⟩ | ⟨-, hq⟩ := herror
    · exact .inl h0'
    · cases hsg
    · exact .inr (tdiv_out_of_range (fun hz => h0 (BitVec.toInt_inj.1 (hz.trans BitVec.toInt_zero.symm))) hq)

end Sys2Proof.Machine

namespace Sys2Proof.Machine

/-! ## Interrupt lines and the actions of devices (R412, R503, R531 to R537) -/

/-! ### Requesting a line (R531, R537) -/

section
variable {s : State} {d : DeviceId} {n k : Nat}

/-- Without preferences the lowest-numbered free line is allocated (R531). -/
theorem allocLine_nil (free : List Nat) : allocLine [] free = free.head? := rfl

/-- The first free line is the lowest-numbered one (R531). -/
theorem State.le_of_head_freeLines (hk : s.freeLines.head? = some k) (hn : n ∈ s.freeLines) : k ≤ n := by
  have hrising : s.freeLines.Pairwise (· < ·) := List.pairwise_lt_range.filter _
  obtain ⟨l, hl⟩ := List.head?_eq_some_iff.1 hk
  rw [hl] at hrising hn
  obtain rfl | hmem := List.mem_cons.1 hn
  · exact le_rfl
  · exact (List.rel_of_pairwise_cons hrising hmem).le

theorem State.freeLines_eq_nil (h : ∀ n < s.params.nlines, s.lineHeld n = true) : s.freeLines = [] :=
  List.eq_nil_iff_forall_not_mem.2 fun n hn => by
    obtain ⟨hlt, hfree⟩ := (s.mem_freeLines n).1 hn
    rw [h n hlt] at hfree
    cases hfree

theorem State.requestLine_of_held (prefs : List Nat) (h : Assoc.find d s.lineOf = some n) :
    s.requestLine d prefs = (s, some n) := by
  rw [State.requestLine, h]

theorem State.requestLine_of_alloc {prefs : List Nat} (h : Assoc.find d s.lineOf = none)
    (ha : allocLine prefs s.freeLines = some k) :
    s.requestLine d prefs = ({ s with lineOf := Assoc.put d k s.lineOf }, some k) := by
  rw [State.requestLine, h]
  dsimp only
  rw [ha]

theorem State.requestLine_of_exhausted {prefs : List Nat} (h : Assoc.find d s.lineOf = none)
    (ha : allocLine prefs s.freeLines = none) :
    s.requestLine d prefs = ({ s with busLog := .noLine d :: s.busLog }, none) := by
  rw [State.requestLine, h]
  dsimp only
  rw [ha]

/-- A request while a line is free gets a free line, without preferences the lowest-numbered one (R531). -/
theorem State.requestLine_free (prefs : List Nat) (h : Assoc.find d s.lineOf = none) (hn : n < s.params.nlines)
    (hfree : s.lineHeld n = false) : ∃ k, k < s.params.nlines ∧ s.lineHeld k = false ∧ (prefs = [] → k ≤ n) ∧
      s.requestLine d prefs = ({ s with lineOf := Assoc.put d k s.lineOf }, some k) := by
  have hmem : n ∈ s.freeLines := (s.mem_freeLines n).2 ⟨hn, hfree⟩
  cases ha : allocLine prefs s.freeLines with
  | none => exact absurd hmem (by rw [allocLine_eq_none.1 ha]; exact List.not_mem_nil)
  | some k =>
    obtain ⟨hk, hkfree⟩ := (s.mem_freeLines k).1 (allocLine_mem ha)
    refine ⟨k, hk, hkfree, ?_, State.requestLine_of_alloc h ha⟩
    rintro rfl
    exact State.le_of_head_freeLines (allocLine_nil _ ▸ ha) hmem

/-! ### Raising and clearing (R532, R533) -/

/-- A raised line stays raised; the line is raised when a device holds it (R532). -/
theorem State.raiseLine_eq (s : State) (n : Nat) : ∃ l, s.raiseLine n = { s with pending := l } ∧
    ∀ m, m ∈ l ↔ m ∈ s.pending ∨ m = n ∧ s.lineHeld n = true := by
  unfold State.raiseLine
  split
  case isTrue hheld => exact ⟨_, rfl, fun m => by rw [Rising.mem_put, hheld]; tauto⟩
  case isFalse hheld => exact ⟨s.pending, rfl, fun m => by tauto⟩

theorem State.clearLine_eq (s : State) (n : Nat) : ∃ l, s.clearLine n = { s with pending := l } ∧
    ∀ m, m ∈ l ↔ m ∈ s.pending ∧ m ≠ n :=
  ⟨_, rfl, fun m => Rising.mem_erase n m s.pending⟩

theorem State.raiseOwn_of_held (h : Assoc.find d s.lineOf = some k) : s.raiseOwn d = s.raiseLine k := by
  rw [State.raiseOwn, h]

theorem State.raiseOwn_of_none (h : Assoc.find d s.lineOf = none) : s.raiseOwn d = s := by
  rw [State.raiseOwn, h]

theorem State.clearOwn_of_held (h : Assoc.find d s.lineOf = some k) : s.clearOwn d = s.clearLine k := by
  rw [State.clearOwn, h]

theorem State.clearOwn_of_none (h : Assoc.find d s.lineOf = none) : s.clearOwn d = s := by
  rw [State.clearOwn, h]

/-- A device that holds a line raises it (R532). -/
theorem State.raiseOwn_eq (h : Assoc.find d s.lineOf = some k) : ∃ l, s.raiseOwn d = { s with pending := l } ∧
    ∀ m, m ∈ l ↔ m ∈ s.pending ∨ m = k := by
  obtain ⟨l, hraise, hl⟩ := s.raiseLine_eq k
  refine ⟨l, (State.raiseOwn_of_held h).trans hraise, fun m => ?_⟩
  rw [hl, State.lineHeld_of_find h, eq_self_iff_true, and_true]

/-! ### Events of the disk channel (R553, R558) -/

theorem DiskChannel.violates_iff (c : DiskChannel) (ev : DiskEvent) :
    c.violates ev = true ↔ c.isSelectedDrivePresent = false ∧ ∀ b, ev ≠ .select b := by
  cases ev <;> simp [DiskChannel.violates]

/-- The channel's event, and the record of an operation on an empty slot (R553, R558). -/
theorem State.diskEvent_of_disk {c : DiskChannel} (n : Nat) (ev : DiskEvent)
    (h : Assoc.find d s.devices = some (.disk c)) :
    s.diskEvent d n ev = { s with
      devices := Assoc.put d (.disk (c.event n ev)) s.devices
      busLog := (if c.violates ev then [.notPresent d] else []) ++ s.busLog } := by
  rw [State.diskEvent, h]
  dsimp only
  split <;> rfl

theorem State.diskEvent_of_not_disk (n : Nat) (ev : DiskEvent)
    (h : ∀ c, Assoc.find d s.devices ≠ some (.disk c)) : s.diskEvent d n ev = s := by
  unfold State.diskEvent
  split
  case h_1 c hc => exact absurd hc (h c)
  all_goals rfl

end

/-- Settles O59: line requests, `raise`, `clear` and each device action by the lemma on it. -/
theorem linesAreRequestedRaisedAndCleared : Obligations.LinesAreRequestedRaisedAndCleared := by
  refine ⟨fun s d prefs n h => State.requestLine_of_held prefs h,
    fun s d prefs h hall => State.requestLine_of_exhausted h (allocLine_eq_none.2 (State.freeLines_eq_nil hall)),
    fun s d prefs n h hn hfree => State.requestLine_free prefs h hn hfree, State.raiseLine_eq, State.clearLine_eq,
    fun s d n a as => ⟨rfl, rfl⟩, fun s d n k h => ⟨State.raiseOwn_eq h, ?clear⟩,
    fun s d n h => ⟨State.raiseOwn_of_none h, State.clearOwn_of_none h⟩, fun s d n b => rfl,
    fun s d n ev c h => ⟨_, _, State.diskEvent_of_disk n ev h, ?_, fun d' hd => ?_, fun habsent hselect => ?_,
      fun hpresent => ?_⟩, fun s d n ev h => State.diskEvent_of_not_disk n ev h⟩
  case clear =>
    obtain ⟨l, hclear, hl⟩ := s.clearLine_eq k
    exact ⟨l, (State.clearOwn_of_held h).trans hclear, hl⟩
  · rw [Assoc.find_put, if_pos rfl]
  · rw [Assoc.find_put, if_neg hd]
  · exact if_pos ((c.violates_iff ev).2 ⟨habsent, hselect⟩)
  · refine if_neg fun hv => ?_
    obtain ⟨habsent, hselect⟩ := (c.violates_iff ev).1 hv
    obtain hp | ⟨b, hb⟩ := hpresent
    · rw [hp] at habsent
      cases habsent
    · exact hselect b hb

end Sys2Proof.Machine

namespace Sys2Proof.Machine

/-! ## The disk channel (R550 to R559) -/

/-! ### Which slots are present, and `reset()` (R556, R559) -/

theorem Drive.present_iff (d : Drive) : d.present = true ↔ d.kind = .disk := by
  unfold Drive.present
  cases d.kind <;> decide

theorem Drive.not_present_iff (d : Drive) : d.present = false ↔ d.kind = .none := by
  unfold Drive.present
  cases d.kind <;> decide

theorem Drive.reset_of_none {d : Drive} (h : d.kind = .none) : d.reset = d :=
  if_neg (Bool.eq_false_iff.1 (d.not_present_iff.2 h))

theorem Drive.reset_of_disk {d : Drive} (h : d.kind = .disk) :
    d.reset = { d with state := .idle, status := resetStatus d.status } :=
  if_pos (d.present_iff.2 h)

/-- What `reset()` makes of a slot, by the type of the slot (R556). -/
theorem Drive.reset_spec {d d' : Drive} (h : d' = d.reset) : (d.kind = .none → d' = d) ∧
    (d.kind = .disk → d'.kind = .disk ∧ d'.state = .idle ∧ d'.status = resetStatus d.status) := by
  subst h
  refine ⟨Drive.reset_of_none, fun hk => ?_⟩
  rw [Drive.reset_of_disk hk]
  exact ⟨hk, rfl, rfl⟩

theorem DiskChannel.isAnyDrivePresent_iff (c : DiskChannel) :
    c.isAnyDrivePresent = true ↔ c.slot0.kind = .disk ∨ c.slot1.kind = .disk := by
  rw [DiskChannel.isAnyDrivePresent, Bool.or_eq_true, Drive.present_iff, Drive.present_iff]

theorem DiskChannel.isSelectedDrivePresent_iff (c : DiskChannel) :
    c.isSelectedDrivePresent = true ↔ (if c.slaveSelected then c.slot1.kind else c.slot0.kind) = .disk := by
  rw [DiskChannel.isSelectedDrivePresent, Drive.present_iff, DiskChannel.selected, apply_ite Drive.kind]

/-- With no drives attached no drive is present after `reset()` either (R559). -/
theorem DiskChannel.reset_not_present {c : DiskChannel} (h0 : c.slot0.kind = .none) (h1 : c.slot1.kind = .none) :
    c.reset.isAnyDrivePresent = false ∧ c.reset.isSelectedDrivePresent = false := by
  have hreset : c.reset = { c with slaveSelected := false } := by
    rw [DiskChannel.reset, Drive.reset_of_none h0, Drive.reset_of_none h1]
  rw [hreset]
  exact ⟨Bool.or_eq_false_iff.2 ⟨c.slot0.not_present_iff.2 h0, c.slot1.not_present_iff.2 h1⟩,
    c.slot0.not_present_iff.2 h0⟩

/-! ### The transitions of one drive (R552 to R555) -/

section
variable {d : Drive}

theorem Drive.toTransfer_of_pos {n : Nat} (h : n ≠ 0) (d : Drive) : d.toTransfer n =
    { d with state := .dataTransfer n, status := { d.status with busy := false, dataRequest := true } } :=
  if_neg h

theorem Drive.event_command (k : Nat) (h : d.state = .idle) :
    d.event k .command = { d with state := .busy, status := { d.status with busy := true } } := by
  rw [Drive.event, h]

theorem Drive.event_dataReady (k n : Nat) (h : d.state = .busy) : d.event k (.dataReady n) = d.toTransfer n := by
  rw [Drive.event, h]

theorem Drive.event_transfer (k : Nat) {n : Nat} (h : d.state = .dataTransfer n) :
    d.event k .transfer = d.toTransfer (n - k) := by
  rw [Drive.event, h]

theorem Drive.event_acknowledge (k : Nat) (h : d.state = .error) : d.event k .acknowledge = d.toIdle := by
  rw [Drive.event, h]

/-- A transfer that does not reach the end lowers the countdown (R553). -/
theorem Drive.event_transfer_of_lt {k n : Nat} (h : d.state = .dataTransfer n) (hk : k < n) :
    (d.event k .transfer).state = .dataTransfer (n - k) := by
  rw [Drive.event_transfer k h, Drive.toTransfer_of_pos (by omega)]

/-- A transfer that reaches the end returns the drive to Idle (R553). -/
theorem Drive.event_transfer_of_le {k n : Nat} (h : d.state = .dataTransfer n) (hk : n ≤ k) :
    d.event k .transfer = d.toIdle := by
  rw [Drive.event_transfer k h, Nat.sub_eq_zero_of_le hk]
  rfl

/-- No event but an acknowledging command takes a drive out of Error (R555). -/
theorem Drive.event_keeps_error (k : Nat) {ev : DiskEvent} (h : d.state = .error) (hev : ev ≠ .acknowledge) :
    (d.event k ev).state = .error := by
  cases ev with
  | acknowledge => exact absurd rfl hev
  | fault => rfl
  | select => exact h
  | command | dataReady | transfer =>
    rw [Drive.event, h]
    exact h

theorem Drive.kind_toTransfer (d : Drive) (n : Nat) : (d.toTransfer n).kind = d.kind := by
  unfold Drive.toTransfer
  split <;> rfl

/-- No event changes the type of a slot (R550). -/
theorem Drive.kind_event (d : Drive) (k : Nat) (ev : DiskEvent) : (d.event k ev).kind = d.kind := by
  cases ev with
  | select | fault => rfl
  | command | acknowledge =>
    unfold Drive.event
    cases d.state <;> rfl
  | dataReady n =>
    unfold Drive.event
    cases d.state with
    | busy => exact d.kind_toTransfer n
    | _ => rfl
  | transfer =>
    unfold Drive.event
    cases d.state with
    | dataTransfer n => exact d.kind_toTransfer (n - k)
    | _ => rfl

end

/-! ### The events of the channel (R550, R557, R558) -/

section
variable {c : DiskChannel} {ev : DiskEvent} (k : Nat) (hev : ∀ b, ev ≠ .select b)
include hev

/-- Every event but selecting is the selected drive's, if there is one (R550, R558). -/
theorem DiskChannel.event_of_not_select : c.event k ev =
    if c.isSelectedDrivePresent then c.setSelected (c.selected.event k ev) else c := by
  cases ev with
  | select b => exact absurd rfl (hev b)
  | _ => rfl

theorem DiskChannel.event_of_not_present (hp : c.isSelectedDrivePresent = false) : c.event k ev = c :=
  (c.event_of_not_select k hev).trans (if_neg (Bool.eq_false_iff.1 hp))

theorem DiskChannel.event_of_slot0 (hs : c.slaveSelected = false) (hk : c.slot0.kind = .disk) :
    c.event k ev = { c with slot0 := c.slot0.event k ev } := by
  have hp : c.isSelectedDrivePresent = true := c.isSelectedDrivePresent_iff.2 (by rw [hs]; exact hk)
  rw [c.event_of_not_select k hev, if_pos hp, DiskChannel.setSelected, DiskChannel.selected, hs]
  rfl

theorem DiskChannel.event_of_slot1 (hs : c.slaveSelected = true) (hk : c.slot1.kind = .disk) :
    c.event k ev = { c with slot1 := c.slot1.event k ev } := by
  have hp : c.isSelectedDrivePresent = true := c.isSelectedDrivePresent_iff.2 (by rw [hs]; exact hk)
  rw [c.event_of_not_select k hev, if_pos hp, DiskChannel.setSelected, DiskChannel.selected, hs]
  rfl

end

theorem DiskChannel.isSelectedDrivePresent_eq_false {c : DiskChannel}
    (h : (if c.slaveSelected then c.slot1.kind else c.slot0.kind) = .none) : c.isSelectedDrivePresent = false :=
  Bool.eq_false_iff.2 fun hp => by
    rw [c.isSelectedDrivePresent_iff, h] at hp
    cases hp

/-- With no drive at the selected index no event changes a slot (R558). -/
theorem DiskChannel.slots_of_not_present {c : DiskChannel} (k : Nat) (ev : DiskEvent)
    (hp : c.isSelectedDrivePresent = false) :
    (c.event k ev).slot0 = c.slot0 ∧ (c.event k ev).slot1 = c.slot1 := by
  by_cases hev : ∀ b, ev ≠ .select b
  · rw [c.event_of_not_present k hev hp]
    exact ⟨rfl, rfl⟩
  · push Not at hev
    obtain ⟨b, rfl⟩ := hev
    exact ⟨rfl, rfl⟩

/-- Settles O60: `reset()`, each transition of a drive and each event of the channel by the lemma on it. -/
theorem diskChannelFollowsItsStates : Obligations.DiskChannelFollowsItsStates := by
  refine ⟨fun c => ⟨rfl, fun d d' h => Drive.reset_spec ?reset⟩, fun c h0 h1 => c.reset_not_present h0 h1,
    fun c n slave => ⟨rfl, apply_ite Drive.status _ _ _⟩, fun d k h => ?command, fun d k n h hn => ?dataReady,
    fun d k n _ h hk => Drive.event_transfer_of_lt h hk, fun d k n _ h hk => ?done, fun d k => ⟨rfl, rfl⟩,
    fun d k h => ?acknowledge, fun d k ev h hev => Drive.event_keeps_error k h hev,
    fun c k ev hev => ⟨c.event_of_slot0 k hev, c.event_of_slot1 k hev, fun hs hk => ?empty0, fun hs hk => ?empty1⟩,
    Drive.kind_event, fun c => ⟨c.isAnyDrivePresent_iff, c.isSelectedDrivePresent_iff⟩,
    fun c k ev hp => c.slots_of_not_present k ev hp⟩
  case reset => obtain ⟨rfl, rfl⟩ | ⟨rfl, rfl⟩ := h <;> rfl
  case command =>
    rw [Drive.event_command k h]
    exact ⟨rfl, rfl⟩
  case dataReady =>
    rw [Drive.event_dataReady k n h, Drive.toTransfer_of_pos hn]
    exact ⟨rfl, rfl, rfl⟩
  case done =>
    rw [Drive.event_transfer_of_le h hk]
    exact ⟨rfl, rfl⟩
  case acknowledge =>
    rw [Drive.event_acknowledge k h]
    exact ⟨rfl, rfl⟩
  case empty0 | empty1 => exact c.event_of_not_present k hev (c.isSelectedDrivePresent_eq_false (by rw [hs]; exact hk))

end Sys2Proof.Machine

namespace Sys2Proof

/-! ## Words of the spec's examples (section 5 of the encoding chapter) -/

/-- Bytes that are the encoder's for a well-formed instruction decode to it, all of them consumed. -/
theorem decodeUnit_of_encode_eq {opsize : Bool} {i : Instr} {bs : List Byte} (hi : i.wellFormed opsize = true)
    (hbs : i.encode = bs) : decodeUnit opsize bs = .done i bs.length := by
  subst hbs
  simpa only [List.append_nil] using decodeOfEncodeIsTheInstruction opsize i [] hi

/-- Settles O8: each word is the encoder's for its instruction, so the round trip decodes it. -/
theorem wordsOfTheSpecDecode : Obligations.WordsOfTheSpecDecode := by
  refine ⟨?_, ?_, ?_, ?_, ?_, ?_, ?_, ?_, ?_, ?_, ?_, ?_, ?_⟩ <;> exact decodeUnit_of_encode_eq rfl rfl

end Sys2Proof

namespace Sys2Proof.Machine

/-! ## The system reset (R531, R600 to R603) -/

/-- What a line request reads and changes is the same in both states (R531). -/
structure State.SameLines (s t : State) : Prop where
  params : s.params = t.params
  lineOf : s.lineOf = t.lineOf
  busLog : s.busLog = t.busLog

theorem State.SameLines.trans {s t u : State} (h : s.SameLines t) (h' : t.SameLines u) : s.SameLines u :=
  ⟨h.params.trans h'.params, h.lineOf.trans h'.lineOf, h.busLog.trans h'.busLog⟩

theorem State.SameLines.freeLines {s t : State} (h : s.SameLines t) : s.freeLines = t.freeLines := by
  unfold State.freeLines State.lineHeld
  rw [h.params, h.lineOf]

/-- The line table and the log after a request depend on nothing else (R531, R537). -/
theorem State.SameLines.requestIfWanted {s t : State} (h : s.SameLines t) (x : DeviceSpec) :
    (s.requestIfWanted x).SameLines (t.requestIfWanted x) := by
  unfold State.requestIfWanted
  split
  · unfold State.requestLine
    rw [h.lineOf, h.freeLines]
    split
    · exact h
    · split
      · exact ⟨h.params, rfl, h.busLog⟩
      · exact ⟨h.params, rfl, congrArg (BusEvent.noLine x.id :: ·) h.busLog⟩
  · exact h

/-- Of a device's `reset()` only the line request touches the line table and the log (R423). -/
theorem State.sameLines_deviceReset (s : State) (x : DeviceSpec) :
    (s.deviceReset x).SameLines (s.requestIfWanted x) := by
  rw [s.deviceReset_eq]
  exact ⟨rfl, rfl, rfl⟩

/-- The binding pass gives lines as the requests alone do (R602). -/
theorem State.SameLines.bindingPass {s t : State} (h : s.SameLines t) (xs : List DeviceSpec) :
    (xs.foldl State.deviceReset s).SameLines (xs.foldl State.requestIfWanted t) :=
  List.foldl_rel (r := State.SameLines) h fun x _ u _ hu => (u.sameLines_deviceReset x).trans (hu.requestIfWanted x)

/-- A device is re-initialised from its own state alone (R423, R556). -/
theorem State.resetDeviceState_devices_congr {s t : State} (h : s.devices = t.devices) (x : DeviceSpec) :
    (s.resetDeviceState x).devices = (t.resetDeviceState x).devices := by
  unfold State.resetDeviceState
  rw [h]
  cases x.kind with
  | blackBox _ => exact h
  | configStub _ _ _ | diskChannel _ _ _ => rfl

/-- The binding pass re-initialises the devices as `resetDeviceState` alone does (R423, R602). -/
theorem State.bindingPass_devices {s t : State} (h : s.devices = t.devices) (xs : List DeviceSpec) :
    (xs.foldl State.deviceReset s).devices = (xs.foldl State.resetDeviceState t).devices :=
  List.foldl_rel (r := fun u v : State => u.devices = v.devices) h fun x _ u _ hu =>
    (u.deviceReset_devices x).trans (State.resetDeviceState_devices_congr hu x)

/-- The state in which the binding pass of a system reset begins (R601, R602). -/
def State.unboundReset (s : State) : State :=
  { s.cpuReset with lineOf := [], pending := [], a20 := s.params.a20Reset }

theorem State.systemReset_eq_bindingPass (s : State) :
    s.systemReset = s.params.devices.foldl State.deviceReset s.unboundReset := rfl

theorem State.sameLines_unboundReset (s : State) : s.unboundReset.SameLines { s with lineOf := [] } := ⟨rfl, rfl, rfl⟩

theorem State.unboundReset_devices (s : State) : s.unboundReset.devices = s.devices := rfl

/-- A system reset before the cycle of a step (R600). -/
theorem step_of_systemReset {s : State} {ps : List (List Input)} (h : s.phases = [.systemReset] :: ps) :
    step s = cycle ({ s with phases := ps } : State).systemReset :=
  step_of_inputs_ok h rfl

/-- Settles O4: the CPU's part is the state the binding pass begins in; the pass changes the port map, the line table, the
log and the devices only, and the last three as the line requests and the devices' own resets do. -/
theorem systemResetRestartsTheCpu : Obligations.SystemResetRestartsTheCpu := by
  refine ⟨fun s ps h => step_of_systemReset h, fun s => ⟨s.systemReset.owner, ?_⟩⟩
  have hframe : s.unboundReset.ResetFrame s.systemReset := by
    rw [s.systemReset_eq_bindingPass]
    exact State.resetFrame_foldl _ State.resetFrame_deviceReset _ _
  have hlines : s.systemReset.SameLines (s.params.devices.foldl State.requestIfWanted { s with lineOf := [] }) := by
    rw [s.systemReset_eq_bindingPass]
    exact s.sameLines_unboundReset.bindingPass _
  have hdevices : s.systemReset.devices = (s.params.devices.foldl State.resetDeviceState s).devices := by
    rw [s.systemReset_eq_bindingPass]
    exact State.bindingPass_devices s.unboundReset_devices _
  rw [← hlines.lineOf, ← hlines.busLog, ← hdevices]
  exact hframe

end Sys2Proof.Machine
